-- ==== Sys2Proof/Word.lean ====
section
/-! DEFINITION. The word types of GF256-CORE (spec/00_scope.md R6, R8). Every value is unsigned. -/

namespace Sys2Proof

/-- A field element of GF(2^8), ELEM_BITS = 8 (R6). -/
abbrev Byte := BitVec 8

/-- A bus word, BUS_BITS = 32 (R6, R43), and a command word (R57). -/
abbrev Word := BitVec 32

/-- A polynomial length, LEN_BITS = 9 (R6, R28). -/
abbrev Len := BitVec 9

/-- The exponent operand of POW and EXP, EXP_BITS = 16 (R6, R60). -/
abbrev Exponent := BitVec 16

end Sys2Proof
end

