-- ==== Sys2Proof/Syntax.lean ====
section
/-! DEFINITION. The command set, version 1 (spec/30_encoding.md R61), and the assembler's commands (R68, R69). -/

namespace Sys2Proof

/-- One command, with the operands its row of R61 uses. The operands' widths are those of R58, so every term is
well formed. -/
inductive Instr where
  /-- ADD a, b (R76) -/
  | add (a b : Byte)
  /-- MUL a, b (R77) -/
  | mul (a b : Byte)
  /-- INV a (R81) -/
  | inv (a : Byte)
  /-- POW a, e (R80) -/
  | pow (a : Byte) (e : Exponent)
  /-- EXP e (R94) -/
  | exp (e : Exponent)
  /-- LOG a (R95) -/
  | log (a : Byte)
  /-- PRIM (R79) -/
  | prim
  /-- PMUL (R101) -/
  | pmul
  /-- PMONO a (R102) -/
  | pmono (a : Byte)
  /-- PEVAL a (R103) -/
  | peval (a : Byte)
  /-- PMOVE (R104) -/
  | pmove
  deriving DecidableEq, Repr

/-- The eleven legal opcodes of R61. -/
inductive Op where
  | add
  | mul
  | inv
  | pow
  | exp
  | log
  | prim
  | pmul
  | pmono
  | peval
  | pmove
  deriving DecidableEq, Repr

/-- Why a word is no command (R63). Every one of them is reported as ILLEGAL_CMD (R64). -/
inductive Illegal where
  /-- RSV is not zero. -/
  | reservedBits
  /-- OP is 0x0 or 0xC to 0xF. -/
  | opcode
  /-- A field that the opcode does not use is not zero. -/
  | unusedField
  /-- Fewer than four bytes: no 32-bit word at all (R57). -/
  | shortWord
  deriving DecidableEq, Repr

/-- A command as an assembler reads it (R68), with the pseudo-instructions of R69. The operands are numbers, not
yet checked against their ranges. -/
inductive Asm where
  | add (a b : Nat)
  | mul (a b : Nat)
  | inv (a : Nat)
  | pow (a e : Nat)
  | exp (e : Nat)
  | log (a : Nat)
  | prim
  | pmul
  | pmono (a : Nat)
  | peval (a : Nat)
  | pmove
  /-- SUB a, b: ADD a, b (R69) -/
  | sub (a b : Nat)
  /-- XOR a, b: ADD a, b (R69) -/
  | xor (a b : Nat)
  /-- SQR a: MUL a, a (R69) -/
  | sqr (a : Nat)
  /-- ALPHA e: EXP e (R69) -/
  | alpha (e : Nat)
  deriving DecidableEq, Repr

end Sys2Proof
end

