-- ==== Sys2Proof/WellFormed.lean ====
section
/-! DEFINITION. Well-formedness. A term of `Instr` is well formed by its operands' types (R58); the check that
remains is the assembler's range check on an operand (spec/30_encoding.md R68). -/

namespace Sys2Proof

/-- a and b are in [0, 255] (R68). -/
def elementInRange (a : Nat) : Bool := Nat.blt a 256

/-- e is in [0, 65535] (R68). -/
def exponentInRange (e : Nat) : Bool := Nat.blt e 65536

/-- R68: an assembler rejects an operand out of range and does not truncate it. -/
def Asm.wellFormed : Asm → Bool
  | .add a b => elementInRange a && elementInRange b
  | .mul a b => elementInRange a && elementInRange b
  | .inv a => elementInRange a
  | .pow a e => elementInRange a && exponentInRange e
  | .exp e => exponentInRange e
  | .log a => elementInRange a
  | .prim => true
  | .pmul => true
  | .pmono a => elementInRange a
  | .peval a => elementInRange a
  | .pmove => true
  | .sub a b => elementInRange a && elementInRange b
  | .xor a b => elementInRange a && elementInRange b
  | .sqr a => elementInRange a
  | .alpha e => exponentInRange e

end Sys2Proof
end

