-- ==== Sys2Proof/Decode.lean ====
section
/-! DEFINITION. The command word: its fields (spec/30_encoding.md R58 to R60), legality (R62, R63), the decoder
(R66) and, from the same tables, the encoder (R68). -/

namespace Sys2Proof

/-- RSV, v[31:28] (R58). -/
def rsvField (v : Word) : BitVec 4 := v.extractLsb' 28 4

/-- OP, v[27:24] (R58). -/
def opField (v : Word) : BitVec 4 := v.extractLsb' 24 4

/-- A, v[23:16], used as it stands (R58, R59). -/
def aField (v : Word) : Byte := v.extractLsb' 16 8

/-- B8, v[7:0], the element form of B (R60). -/
def b8Field (v : Word) : Byte := v.extractLsb' 0 8

/-- v[15:8], zero in the element form of B (R60). -/
def bHighField (v : Word) : Byte := v.extractLsb' 8 8

/-- E, v[15:0], the exponent form of B (R60). -/
def eField (v : Word) : Exponent := v.extractLsb' 0 16

/-- v[23:0], zero for a command with no operand (R62). -/
def operandField (v : Word) : BitVec 24 := v.extractLsb' 0 24

/-- The legality predicate, in the case form of R62. -/
def legal (v : Word) : Bool :=
  rsvField v == 0#4 &&
  match (opField v).toNat with
  | 0x1 | 0x2 => bHighField v == 0#8
  | 0x3 | 0x6 | 0x9 | 0xA => eField v == 0#16
  | 0x4 => true
  | 0x5 => aField v == 0#8
  | 0x7 | 0x8 | 0xB => operandField v == 0#24
  | _ => false

/-- The rows of R62's match and mask table, in its order. -/
def Op.all : List Op :=
  [.add, .mul, .inv, .pow, .exp, .log, .prim, .pmul, .pmono, .peval, .pmove]

/-- The match column of R62. -/
def Op.pattern : Op → Word
  | .add => 0x01000000#32
  | .mul => 0x02000000#32
  | .inv => 0x03000000#32
  | .pow => 0x04000000#32
  | .exp => 0x05000000#32
  | .log => 0x06000000#32
  | .prim => 0x07000000#32
  | .pmul => 0x08000000#32
  | .pmono => 0x09000000#32
  | .peval => 0x0A000000#32
  | .pmove => 0x0B000000#32

/-- The mask column of R62. -/
def Op.mask : Op → Word
  | .add => 0xFF00FF00#32
  | .mul => 0xFF00FF00#32
  | .inv => 0xFF00FFFF#32
  | .pow => 0xFF000000#32
  | .exp => 0xFFFF0000#32
  | .log => 0xFF00FFFF#32
  | .prim => 0xFFFFFFFF#32
  | .pmul => 0xFFFFFFFF#32
  | .pmono => 0xFF00FFFF#32
  | .peval => 0xFF00FFFF#32
  | .pmove => 0xFFFFFFFF#32

/-- `(v & mask) == match` (R62). -/
def Op.matches (o : Op) (v : Word) : Bool := v &&& o.mask == o.pattern

/-- The command an opcode names, with the fields its row uses (R61, R66). -/
def Op.instr (v : Word) : Op → Instr
  | .add => .add (aField v) (b8Field v)
  | .mul => .mul (aField v) (b8Field v)
  | .inv => .inv (aField v)
  | .pow => .pow (aField v) (eField v)
  | .exp => .exp (eField v)
  | .log => .log (aField v)
  | .prim => .prim
  | .pmul => .pmul
  | .pmono => .pmono (aField v)
  | .peval => .peval (aField v)
  | .pmove => .pmove

/-- The name of a rejection: the first of R63's three causes that holds. -/
def whyIllegal (v : Word) : Illegal :=
  if rsvField v ≠ 0#4 then .reservedBits
  else if opField v = 0x0#4 ∨ 0xC#4 ≤ opField v then .opcode
  else .unusedField

/-- The decoder: total, by the match and mask table alone (R66). -/
def decode (v : Word) : Except Illegal Instr :=
  match Op.all.find? (fun o => o.matches v) with
  | some o => .ok (o.instr v)
  | none => .error (whyIllegal v)

/-- Byte lane k of a word, bits [8k+7 : 8k] (20_memory.md R40). -/
def byteLane (v : Word) (k : Nat) : Byte := v.extractLsb' (8 * k) 8

/-- The word whose byte lanes are b0 to b3, the first at the lowest address (R40). -/
def wordOfLanes (b0 b1 b2 b3 : Byte) : Word := b3 ++ b2 ++ b1 ++ b0

/-- The decoder on bytes: one command and the rest, every command being four bytes (R57, R67). -/
def decodeBytes : List Byte → Except Illegal (Instr × List Byte)
  | b0 :: b1 :: b2 :: b3 :: rest => (decode (wordOfLanes b0 b1 b2 b3)).map (fun i => (i, rest))
  | _ => .error .shortWord

/-- The word of a command, by the formulas of R68. -/
def encode : Instr → Word
  | .add a b => 0x01000000#32 ||| a.setWidth 32 <<< 16 ||| b.setWidth 32
  | .mul a b => 0x02000000#32 ||| a.setWidth 32 <<< 16 ||| b.setWidth 32
  | .inv a => 0x03000000#32 ||| a.setWidth 32 <<< 16
  | .pow a e => 0x04000000#32 ||| a.setWidth 32 <<< 16 ||| e.setWidth 32
  | .exp e => 0x05000000#32 ||| e.setWidth 32
  | .log a => 0x06000000#32 ||| a.setWidth 32 <<< 16
  | .prim => 0x07000000#32
  | .pmul => 0x08000000#32
  | .pmono a => 0x09000000#32 ||| a.setWidth 32 <<< 16
  | .peval a => 0x0A000000#32 ||| a.setWidth 32 <<< 16
  | .pmove => 0x0B000000#32

/-- The bytes of a command in the bus's lanes, lane 0 first (R40). -/
def encodeBytes (i : Instr) : List Byte :=
  [byteLane (encode i) 0, byteLane (encode i) 1, byteLane (encode i) 2, byteLane (encode i) 3]

/-- The word that the low nbits of w give, the bits above them zero; a command has 32 bits (R57). -/
def tableWord (nbits w : Nat) : Word := BitVec.ofNat 32 (w % 2 ^ nbits)

/-- What the decoder reads from an opcode-table word: laid out in its byte lanes and decoded (log entry 17). -/
def decodeTableWord (nbits w : Nat) : Option Instr :=
  if nbits ≤ 32 then
    match decodeBytes ((List.range 4).map (byteLane (tableWord nbits w))) with
    | .ok (i, _) => some i
    | .error _ => none
  else none

end Sys2Proof
end

