-- ==== Sys2Proof/Config.lean ====
section
/-! DEFINITION. What this hardware fixes (spec/00_scope.md R6), the OPEN parameter BASE, and the free values
of spec/93_implementation_defined.md. -/

namespace Sys2Proof

/-- The five internal memories: the two tables (R24) and the three coefficient buffers (R27). -/
inductive Store where
  | exp
  | log
  | p
  | q
  | r
  deriving DecidableEq, Repr

namespace Config

/-- FIELD_POLY = 0x11D, x^8 + x^4 + x^3 + x^2 + 1 (R3, R6). -/
def fieldPoly : BitVec 9 := 0x11D#9

/-- PRIM = 0x02 (R3, R6). -/
def prim : Byte := 0x02#8

/-- ORDER = 255, the multiplicative group order (R6). -/
def order : Nat := 255

/-- MAXLEN = 256, coefficients per polynomial buffer (R6). -/
def maxLen : Nat := 256

/-- EXP_BITS = 16, the width of the exponent operand (R6). -/
def expBits : Nat := 16

/-- WINDOW = 0x1000 bytes (R6, R20). -/
def window : Nat := 0x1000

/-- BASE is OPEN (R20, U14): its page number has no value here, so no claim can rest on one. -/
opaque basePage : Nat

/-- BASE, the host address of the register window, a multiple of 0x1000 (R20). -/
@[irreducible] def base : Nat := basePage * 0x1000

/-- `draw32()` of R45 (U1): what a host read of a hidden register returns in step number n. Free value, log entry 4. -/
opaque freeWord : Nat → Word

/-- What a cell that holds no value is read as in step number n (R33, U2, U3; tables: log entry 6). Free value,
log entries 4 and 5. -/
opaque freeCell : Nat → Store → Nat → Byte

end Config

end Sys2Proof
end

