-- ==== Sys2Proof/Machine/State.lean ====
section
/-! DEFINITION. The machine's state (spec/10_state.md R15, R35), its stop reasons, and the environment's inputs. -/

namespace Sys2Proof.Machine

/-- A memory of bytes in canonical form: (index, byte) pairs, indices strictly rising. An index that is not listed
holds no value (R33). -/
abbrev Memory := List Host.Cell

/-- The table generator's progress (R16). -/
inductive TState where
  | init
  | ready
  | cfgFail
  deriving DecidableEq, Repr

/-- The error codes of 60_exceptions.md R114, by name. -/
inductive ErrCode where
  | illegalCmd
  | notReady
  | busyWrite
  | divZero
  | logZero
  | badLen
  | lenOverflow
  | fieldConfig
  deriving DecidableEq, Repr

/-- The width of a host access; only `word` is admitted (20_memory.md R42, R43). -/
inductive Width where
  | byte
  | half
  | word
  | double
  deriving DecidableEq, Repr

/-- One transaction of the HOST agent (10_state.md R13). Addresses are relative to BASE, so no claim depends on
BASE (log entry 9). -/
inductive HostOp where
  /-- BusRead (R45). -/
  | read (rel : Int) (w : Width)
  /-- BusWrite of v (R46). -/
  | write (rel : Int) (w : Width) (v : Word)
  /-- WAIT: BusRead of STATUS, again until s[1] = 0 (30_encoding.md R70). -/
  | wait
  deriving DecidableEq, Repr

/-- Whose step comes next: the two agents (R13) and the two edges of the reset input (R131). -/
inductive Turn where
  | host
  | core
  | assertReset
  | deassertReset
  deriving DecidableEq, Repr

/-- Why the machine stops with a fault. -/
inductive Fault where
  /-- Raised by `completeStep` when BUSY = 1 and PEND holds no legal word. R17 and R64 exclude it, so it is a stuck
  state of the model; safe (log entry 7). -/
  | corruptPending
  deriving DecidableEq, Repr

/-- Why a step is refused. -/
inductive Refusal where
  /-- Raised by `exec` for an instruction with no meaning yet; safe. No arm raises it. -/
  | notModelled (mnemonic : String)
  /-- Raised by `admitAccess`: a host access outside [BASE, BASE + 0x1000), which the block does not define (R39, U7); safe. -/
  | outsideWindow
  /-- Raised by `admitAccess`: a host access that is not 32 bits wide (R42, U6); safe. -/
  | notOneWord
  /-- Raised by `admitAccess`: an offset that is not a multiple of 4 (R42, U6); safe. -/
  | misaligned
  /-- Raised by `hostStep`: a host transaction while reset is asserted, which has no step (R131); safe. -/
  | heldInReset
  deriving DecidableEq, Repr

/-- The complete architectural state (R15), the reset input (R131), and four fields of the model's own. -/
structure State where
  /-- TSTATE (R16). -/
  tstate : TState
  /-- EXP[0..254] (R24). -/
  expTab : Memory
  /-- LOG[0..255]; LOG[0] holds no value (R24). -/
  logTab : Memory
  /-- BUSY (R17). -/
  busy : Bool
  /-- PEND, the issued command word (R17). -/
  pend : Option Word
  /-- STATUS.ERR (R23). -/
  err : Bool
  /-- STATUS.ECODE (R23). -/
  ecode : BitVec 4
  /-- RESULT (R26). -/
  result : Byte
  /-- PBUF[0..255] (R27). -/
  pbuf : Memory
  /-- QBUF[0..255] (R27). -/
  qbuf : Memory
  /-- RBUF[0..255] (R27). -/
  rbuf : Memory
  /-- PLEN (R28). -/
  plen : Len
  /-- QLEN (R28). -/
  qlen : Len
  /-- RLEN (R29). -/
  rlen : Len
  /-- The reset input is asserted (R131). -/
  inReset : Bool
  /-- Model's own: the host's transactions still to come, the next one first (log entry 2). -/
  host : List HostOp
  /-- Model's own: whose turn comes next (log entry 1). -/
  sched : List Turn
  /-- Model's own: what the host's reads returned, newest first (log entry 3). -/
  reads : List Word
  /-- Model's own: the number of the step, to which the free values are applied (log entry 4). -/
  stepNo : Nat
  deriving DecidableEq, Repr

/-- The machine right after reset (R35, R131). The model's own four fields are empty (DESIGN CHOICE, log entries
1 to 4). -/
def State.reset : State where
  tstate := .init
  expTab := []
  logTab := []
  busy := false
  pend := none
  err := false
  ecode := 0#4
  result := 0x00#8
  pbuf := []
  qbuf := []
  rbuf := []
  plen := 0#9
  qlen := 0#9
  rlen := 0#9
  inReset := false
  host := []
  sched := []
  reads := []
  stepNo := 0

end Sys2Proof.Machine
end

