-- ==== Sys2Proof/Machine/Flags.lean ====
section
/-! DEFINITION. The STATUS flags and their encoding (spec/10_state.md R23, R34; 60_exceptions.md R114). No command
sets a zero, carry or overflow flag: the field has none (R34). -/

namespace Sys2Proof.Machine

/-- The code recorded in ECODE (R114). -/
def ErrCode.bits : ErrCode → BitVec 4
  | .illegalCmd => 1#4
  | .notReady => 2#4
  | .busyWrite => 3#4
  | .divZero => 4#4
  | .logZero => 5#4
  | .badLen => 6#4
  | .lenOverflow => 7#4
  | .fieldConfig => 8#4

/-- STATUS.READY is 1 exactly when TSTATE = READY (R23). -/
def State.readyFlag (s : State) : Bool := decide (s.tstate = .ready)

/-- STATUS.CFGF is 1 exactly when TSTATE = CFG_FAIL (R23). -/
def State.cfgfFlag (s : State) : Bool := decide (s.tstate = .cfgFail)

/-- The STATUS word, ECODE, ERR, CFGF, BUSY, READY from bit 7 down (R23). -/
def State.status (s : State) : Word :=
  0#24 ++ s.ecode ++ BitVec.ofBool s.err ++ BitVec.ofBool s.cfgfFlag ++ BitVec.ofBool s.busy ++
    BitVec.ofBool s.readyFlag

/-- Bit 3 of a word written to STATUS clears the error record (R23). -/
def clearsError (v : Word) : Bool := v.getLsbD 3

/-- Bit 1 of a STATUS word is BUSY, what WAIT polls (R70). -/
def statusBusy (v : Word) : Bool := v.getLsbD 1

end Sys2Proof.Machine
end

