-- ==== Sys2Proof/Machine/Ops.lean ====
section
/-! DEFINITION. The named operations over memory and registers. Every read and write of a field goes through one
of these. -/

namespace Sys2Proof.Machine

/-! Memories: reading and writing one cell. -/

/-- The value a cell holds, or none (R33). -/
def Memory.read : Memory → Nat → Option Byte
  | [], _ => none
  | (k, v) :: m, a => bif Nat.beq k a then some v else Memory.read m a

/-- The memory in which cell a holds v; the canonical form is kept. -/
def Memory.write : Memory → Nat → Byte → Memory
  | [], a, v => [(a, v)]
  | (k, w) :: m, a, v =>
    bif Nat.blt k a then (k, w) :: Memory.write m a v
    else bif Nat.beq k a then (a, v) :: m
    else (a, v) :: (k, w) :: m

/-- The memory whose cells a, a + 1, … hold the bytes of the list, in its order, and no other cell a value. -/
def Memory.block (a : Nat) : List Byte → Memory
  | [] => []
  | v :: vs => (a, v) :: Memory.block (a + 1) vs

/-- Cells a, a + 1, … hold the bytes of the list, in its order; every other cell is as before. -/
def Memory.writeFrom (m : Memory) (a : Nat) (vs : List Byte) : Memory :=
  m.filter (fun c => Nat.blt c.1 a) ++ Memory.block a vs ++ m.filter (fun c => Nat.ble (a + vs.length) c.1)

/-- The canonical form: indices strictly rising, every one at least lo. -/
def Memory.wfFrom (lo : Nat) : Memory → Bool
  | [] => true
  | (k, _) :: m => Nat.ble lo k && Memory.wfFrom (k + 1) m

/-- The canonical form of a memory. -/
def Memory.wf (m : Memory) : Bool := m.wfFrom 0

/-- Every listed index is below n. -/
def Memory.below (n : Nat) (m : Memory) : Bool := m.all (fun c => Nat.blt c.1 n)

/-- One of the five memories of a state. -/
def State.mem (s : State) : Store → Memory
  | .exp => s.expTab
  | .log => s.logTab
  | .p => s.pbuf
  | .q => s.qbuf
  | .r => s.rbuf

/-! Registers. -/

/-- RESULT <- v (R26). -/
def State.setResult (s : State) (v : Byte) : State := { s with result := v }

/-- PLEN <- n (R28). -/
def State.setPlen (s : State) (n : Len) : State := { s with plen := n }

/-- QLEN <- n (R28). -/
def State.setQlen (s : State) (n : Len) : State := { s with qlen := n }

/-- RLEN <- n (R29). -/
def State.setRlen (s : State) (n : Len) : State := { s with rlen := n }

/-- PBUF <- m (R27). -/
def State.setPbuf (s : State) (m : Memory) : State := { s with pbuf := m }

/-- QBUF <- m (R27). -/
def State.setQbuf (s : State) (m : Memory) : State := { s with qbuf := m }

/-- RBUF <- m (R27). -/
def State.setRbuf (s : State) (m : Memory) : State := { s with rbuf := m }

/-- EXP and LOG are written and TSTATE becomes READY (R91). -/
def State.setTables (s : State) (e l : Memory) : State :=
  { s with tstate := .ready, expTab := e, logTab := l }

/-- TSTATE <- CFG_FAIL (R92). -/
def State.setCfgFail (s : State) : State := { s with tstate := .cfgFail }

/-! The error record: this block's whole exception mechanism (60_exceptions.md R113, R119). -/

/-- `raise Err(code)` and `Fail(code)`: ERR <- 1, ECODE <- code, and nothing else (R116). -/
def State.recordError (s : State) (c : ErrCode) : State := { s with err := true, ecode := c.bits }

/-- The host's acknowledgement: ERR <- 0, ECODE <- 0 (R23, R120). There is no return from a trap. -/
def State.clearError (s : State) : State := { s with err := false, ecode := 0#4 }

/-! A command's life (R17). -/

/-- PEND <- v, BUSY <- 1 (R64). -/
def State.accept (s : State) (v : Word) : State := { s with busy := true, pend := some v }

/-- BUSY <- 0, PEND <- none (R65). -/
def State.retire (s : State) : State := { s with busy := false, pend := none }

/-! The reset input and the model's own fields. -/

/-- The level of the reset input (R131). -/
def State.setInReset (s : State) (b : Bool) : State := { s with inReset := b }

/-- Every piece of the block's state at its reset value (R35, R131); the environment's lists and the step number
are not the block's. -/
def State.restart (s : State) : State :=
  { State.reset with host := s.host, sched := s.sched, reads := s.reads, stepNo := s.stepNo }

/-- The host's transactions still to come. -/
def State.setHost (s : State) (h : List HostOp) : State := { s with host := h }

/-- The host has read v. -/
def State.logRead (s : State) (v : Word) : State := { s with reads := v :: s.reads }

/-- The turn taken is used up, and the next step has the next number. -/
def State.endTurn (s : State) : State := { s with sched := s.sched.tail, stepNo := s.stepNo + 1 }

end Sys2Proof.Machine
end

