-- ==== Sys2Proof/Machine/Operands.lean ====
section
/-! DEFINITION. The operand forms: a cell of a table or a buffer, and the lengths that select a polynomial
(spec/10_state.md R24, R27, R28, R33). The operands in the command word are decoded in Decode.lean. -/

namespace Sys2Proof.Machine

/-- The value a rule reads from a cell: the one it holds, or a free value if it holds none (R33, U3), one value for
the cell in one step (log entry 5). -/
def State.cell (s : State) (m : Store) (i : Nat) : Byte :=
  match (s.mem m).read i with
  | some v => v
  | none => Config.freeCell s.stepNo m i

/-- EXP[i] (R24). -/
def State.expAt (s : State) (i : Nat) : Byte := s.cell .exp i

/-- LOG[e], as the number it stands for (R24). -/
def State.logAt (s : State) (e : Byte) : Nat := (s.cell .log e.toNat).toNat

/-- The first n entries of a buffer, lowest degree first (R27, R106). -/
def State.coeffs (s : State) (m : Store) (n : Nat) : List Byte := (List.range n).map (s.cell m)

/-- A command that reads a length accepts only 1 <= length <= MAXLEN (R28). -/
def lenOk (n : Len) : Bool := Nat.ble 1 n.toNat && Nat.ble n.toNat Config.maxLen

end Sys2Proof.Machine
end

