-- ==== Sys2Proof/Machine/Bus.lean ====
section
/-! DEFINITION. The host register window (spec/10_state.md R20 to R33), the bus primitives (20_memory.md R45, R46)
and the issue of a command (30_encoding.md R64). -/

namespace Sys2Proof.Machine

/-- What stands at an offset of the window (R20). -/
inductive Reg where
  | cfg
  | cap
  | status
  | cmd
  | result
  | plen
  | qlen
  | rlen
  | reserved
  | pbuf (i : Nat)
  | qbuf (i : Nat)
  | rbuf (i : Nat)
  deriving DecidableEq, Repr

/-- The register map of R20. -/
def regAt (off : Nat) : Reg :=
  if off < 0x020 then
    match off with
    | 0x000 => .cfg
    | 0x004 => .cap
    | 0x008 => .status
    | 0x00C => .cmd
    | 0x010 => .result
    | 0x014 => .plen
    | 0x018 => .qlen
    | 0x01C => .rlen
    | _ => .reserved
  else if off < 0x400 then .reserved
  else if off < 0x800 then .pbuf ((off - 0x400) / 4)
  else if off < 0xC00 then .qbuf ((off - 0x800) / 4)
  else if off < 0x1000 then .rbuf ((off - 0xC00) / 4)
  else .reserved

/-- The registers whose reads are unspecified while BUSY = 1 (R32, R45). -/
def Reg.hiddenWhileBusy : Reg → Bool
  | .result | .plen | .qlen | .rlen | .pbuf _ | .qbuf _ | .rbuf _ => true
  | .cfg | .cap | .status | .cmd | .reserved => false

/-- CFG, the field configuration (R21). -/
def cfgWord : Word := 0#8 ++ Config.prim ++ 0#7 ++ Config.fieldPoly

/-- CAP, the size parameters (R22). -/
def capWord : Word := 0#11 ++ BitVec.ofNat 5 Config.expBits ++ 0#7 ++ BitVec.ofNat 9 Config.maxLen

/-- A register's value as its bus word, zero-extended (R43, R45). -/
def State.regWord (s : State) : Reg → Word
  | .cfg => cfgWord
  | .cap => capWord
  | .status => s.status
  | .cmd => 0#32
  | .result => s.result.setWidth 32
  | .plen => s.plen.setWidth 32
  | .qlen => s.qlen.setWidth 32
  | .rlen => s.rlen.setWidth 32
  | .reserved => 0#32
  | .pbuf i => (s.cell .p i).setWidth 32
  | .qbuf i => (s.cell .q i).setWidth 32
  | .rbuf i => (s.cell .r i).setWidth 32

/-- BusRead (R45). It changes no state; in the BUSY window a hidden register reads as a free word (R32). -/
def busRead (off : Nat) (s : State) : Word :=
  if s.busy && (regAt off).hiddenWhileBusy then Config.freeWord s.stepNo
  else s.regWord (regAt off)

/-- Issue (R64): the first check that fails is the one recorded (R117). -/
def issue (v : Word) (s : State) : State :=
  if s.tstate ≠ .ready then s.recordError .notReady
  else if s.busy then s.recordError .busyWrite
  else if legal v = false then s.recordError .illegalCmd
  else s.accept v

/-- A host write that is refused while BUSY = 1 (R46). -/
def State.unlessBusy (s : State) (t : State) : State :=
  if s.busy then s.recordError .busyWrite else t

/-- BusWrite (R46). -/
def busWrite (off : Nat) (v : Word) (s : State) : State :=
  match regAt off with
  | .status => if clearsError v then s.clearError else s
  | .cmd => issue v s
  | .plen => s.unlessBusy (s.setPlen (v.extractLsb' 0 9))
  | .qlen => s.unlessBusy (s.setQlen (v.extractLsb' 0 9))
  | .pbuf i => s.unlessBusy (s.setPbuf (s.pbuf.write i (v.extractLsb' 0 8)))
  | .qbuf i => s.unlessBusy (s.setQbuf (s.qbuf.write i (v.extractLsb' 0 8)))
  | .cfg | .cap | .result | .rlen | .reserved | .rbuf _ => s

/-- The offset of an admitted access (R39, R41, R43), or why the access has no step (R42). -/
def admitAccess (rel : Int) (w : Width) : Except Refusal Nat :=
  if rel < 0 ∨ 0x1000 ≤ rel then .error .outsideWindow
  else if w ≠ .word then .error .notOneWord
  else if rel % 4 ≠ 0 then .error .misaligned
  else .ok rel.toNat

/-- A bus address as a HostOp holds it, relative to BASE (R39). -/
def relOf (addr : Nat) : Int := (addr : Int) - (Config.base : Int)

end Sys2Proof.Machine
end

