-- ==== Sys2Proof/Machine/Galois.lean ====
section
/-! DEFINITION. The reference product and the exp/log table generator's computation, for any generating polynomial
and primitive element (spec/40_field.md R78; 41_tables.md R91, R92; 00_scope.md R7). -/

namespace Sys2Proof.Machine

/-- The carry-less product of two bytes, 15 bits (the first loop of R78). -/
def clmul (a b : Byte) : BitVec 15 :=
  (List.range 8).foldl (fun r i => bif b.getLsbD i then r ^^^ a.setWidth 15 <<< i else r) 0#15

/-- The reduction by the generating polynomial, from bit 14 down to bit 8 (the second loop of R78). -/
def reduceBy (poly : BitVec 9) (r : BitVec 15) : BitVec 15 :=
  [14, 13, 12, 11, 10, 9, 8].foldl
    (fun r k => bif r.getLsbD k then r ^^^ poly.setWidth 15 <<< (k - 8) else r) r

/-- The reference product clmul_mod (R78). -/
def clmulMod (poly : BitVec 9) (a b : Byte) : Byte := (reduceBy poly (clmul a b)).setWidth 8

/-- f n, with n evaluated before f is entered, so that the kernel carries a numeral through a long walk. -/
def evalThen {α : Type} (n : Nat) (f : Nat → α) : α :=
  match n with
  | 0 => f 0
  | k + 1 => f (k + 1)

/-- n successive powers of prim, the first one x (R91's walk). -/
def powersFrom (poly : BitVec 9) (prim : Byte) : Nat → Byte → List Byte
  | 0, _ => []
  | n + 1, x => x :: evalThen (clmulMod poly x prim).toNat (fun y => powersFrom poly prim n (BitVec.ofNat 8 y))

/-- T[0..254], the candidate antilog table (R91). -/
@[irreducible] def candidate (poly : BitVec 9) (prim : Byte) : List Byte := powersFrom poly prim Config.order 1#8

/-- x is one of the numbers of a list. -/
def listed (x : Nat) : List Nat → Bool
  | [] => false
  | y :: ys => Nat.beq x y || listed x ys

/-- The numbers of a list are pairwise distinct. -/
def distinct : List Nat → Bool
  | [] => true
  | x :: xs => !listed x xs && distinct xs

/-- check(T): every value nonzero, all pairwise distinct (R91). -/
def checkTable (t : List Byte) : Bool :=
  (t.map BitVec.toNat).all (Nat.blt 0) && distinct (t.map BitVec.toNat)

/-- EXP[i] <- T[i] (R91). -/
def expOf (t : List Byte) : Memory := Memory.block 0 t

/-- LOG[T[i]] <- i, for i from the given index on (R91). -/
def logFrom (m : Memory) (i : Nat) : List Byte → Memory
  | [] => m
  | x :: xs => logFrom (m.write x.toNat (BitVec.ofNat 8 i)) (i + 1) xs

/-- LOG[T[i]] <- i for i in 0..254 (R91). -/
def logOf (t : List Byte) : Memory := logFrom [] 0 t

/-- The EXP table of this hardware: what BUILD writes. -/
@[irreducible] def builtExp : Memory := expOf (candidate Config.fieldPoly Config.prim)

/-- The LOG table of this hardware: what BUILD writes. -/
@[irreducible] def builtLog : Memory := logOf (candidate Config.fieldPoly Config.prim)

end Sys2Proof.Machine
end

