-- ==== Sys2Proof/Machine/FieldEngine.lean ====
section
/-! DEFINITION. The Field Engine commands ADD, MUL, PRIM, POW and INV (spec/40_field.md). Each meaning is R65's
`Exec` with its writes, or its error record. -/

namespace Sys2Proof.Machine

/-- gf_add(a, b) = a ^ b (R76). -/
def gfAdd (a b : Byte) : Byte := a ^^^ b

/-- gf_mul(a, b), by the tables (R77). -/
def State.gfMul (s : State) (a b : Byte) : Byte :=
  if a = 0#8 ∨ b = 0#8 then 0#8
  else s.expAt ((s.logAt a + s.logAt b) % Config.order)

/-- gf_pow(a, e), the exponent product exact (R80). -/
def State.gfPow (s : State) (a : Byte) (e : Nat) : Byte :=
  if a = 0#8 then (if e = 0 then 1#8 else 0#8)
  else s.expAt (s.logAt a * e % Config.order)

/-- gf_inv(a), for a not 0 (R81). -/
def State.gfInv (s : State) (a : Byte) : Byte := s.expAt ((Config.order - s.logAt a) % Config.order)

/-- ADD (R76). -/
def execAdd (a b : Byte) (s : State) : Host.Outcome State Fault Refusal :=
  .next (s.setResult (gfAdd a b))

/-- MUL (R77). -/
def execMul (a b : Byte) (s : State) : Host.Outcome State Fault Refusal :=
  .next (s.setResult (s.gfMul a b))

/-- INV (R81): DIV_ZERO exactly when a = 0. -/
def execInv (a : Byte) (s : State) : Host.Outcome State Fault Refusal :=
  if a = 0#8 then .next (s.recordError .divZero)
  else .next (s.setResult (s.gfInv a))

/-- POW (R80). -/
def execPow (a : Byte) (e : Exponent) (s : State) : Host.Outcome State Fault Refusal :=
  .next (s.setResult (s.gfPow a e.toNat))

/-- PRIM (R79). -/
def execPrim (s : State) : Host.Outcome State Fault Refusal :=
  .next (s.setResult Config.prim)

end Sys2Proof.Machine
end

