-- ==== Sys2Proof/Machine/PolyEngine.lean ====
section
/-! DEFINITION. The Polynomial Engine commands PMUL, PMONO, PEVAL and PMOVE (spec/42_polynomial.md). -/

namespace Sys2Proof.Machine

/-- n = PLEN + QLEN - 1, the length of the product (R101). -/
def State.productLen (s : State) : Nat := s.plen.toNat + s.qlen.toNat - 1

/-- S[k], the sum over i from max(0, k - QLEN + 1) to min(k, PLEN - 1) (R101). -/
def State.productCoeff (s : State) (k : Nat) : Byte :=
  let lo := k + 1 - s.qlen.toNat
  let hi := min k (s.plen.toNat - 1)
  (List.range' lo (hi + 1 - lo)).foldl
    (fun c i => gfAdd c (s.gfMul (s.cell .p i) (s.cell .q (k - i)))) 0#8

/-- S[0..n-1] (R101). -/
def State.product (s : State) : List Byte := (List.range s.productLen).map s.productCoeff

/-- Horner's method from the highest coefficient down (R103). -/
def State.horner (s : State) (x : Byte) (cs : List Byte) : Byte :=
  cs.foldr (fun c acc => gfAdd (s.gfMul acc x) c) 0#8

/-- PMUL (R101), its checks in the order of R117. -/
def execPmul (s : State) : Host.Outcome State Fault Refusal :=
  if lenOk s.plen = false then .next (s.recordError .badLen)
  else if lenOk s.qlen = false then .next (s.recordError .badLen)
  else if Config.maxLen < s.productLen then .next (s.recordError .lenOverflow)
  else .next ((s.setRbuf (s.rbuf.writeFrom 0 s.product)).setRlen (BitVec.ofNat 9 s.productLen))

/-- PMONO (R102). -/
def execPmono (a : Byte) (s : State) : Host.Outcome State Fault Refusal :=
  .next ((s.setQbuf (s.qbuf.writeFrom 0 [a, 0x01#8])).setQlen 2#9)

/-- PEVAL (R103). -/
def execPeval (a : Byte) (s : State) : Host.Outcome State Fault Refusal :=
  if lenOk s.plen = false then .next (s.recordError .badLen)
  else .next (s.setResult (s.horner a (s.coeffs .p s.plen.toNat)))

/-- PMOVE (R104). -/
def execPmove (s : State) : Host.Outcome State Fault Refusal :=
  if lenOk s.rlen = false then .next (s.recordError .badLen)
  else .next ((s.setPbuf (s.pbuf.writeFrom 0 (s.coeffs .r s.rlen.toNat))).setPlen s.rlen)

end Sys2Proof.Machine
end

