-- ==== Sys2Proof/Machine/TableEngine.lean ====
section
/-! DEFINITION. The exp/log table generator BUILD and the lookup commands EXP and LOG (spec/41_tables.md). -/

namespace Sys2Proof.Machine

/-- BUILD with the generating polynomial and primitive element as arguments (R91, R92; 00_scope.md R7). -/
def buildWith (poly : BitVec 9) (prim : Byte) (s : State) : State :=
  if checkTable (candidate poly prim) then
    s.setTables (expOf (candidate poly prim)) (logOf (candidate poly prim))
  else s.setCfgFail.recordError .fieldConfig

/-- BUILD of this hardware (R91, R6). -/
def build (s : State) : State := buildWith Config.fieldPoly Config.prim s

/-- EXP (R94). -/
def execExp (e : Exponent) (s : State) : Host.Outcome State Fault Refusal :=
  .next (s.setResult (s.expAt (e.toNat % Config.order)))

/-- LOG (R95): LOG_ZERO exactly when a = 0. -/
def execLog (a : Byte) (s : State) : Host.Outcome State Fault Refusal :=
  if a = 0#8 then .next (s.recordError .logZero)
  else .next (s.setResult (BitVec.ofNat 8 (s.logAt a)))

end Sys2Proof.Machine
end

