-- ==== Sys2Proof/Machine/Dispatch.lean ====
section
/-! DEFINITION. Exec (spec/30_encoding.md R65): one arm per command. -/

namespace Sys2Proof.Machine

def exec (i : Instr) (s : State) : Host.Outcome State Fault Refusal :=
  match i with
  | .add a b => Sys2Proof.Machine.execAdd a b s
  | .mul a b => Sys2Proof.Machine.execMul a b s
  | .inv a => Sys2Proof.Machine.execInv a s
  | .pow a e => Sys2Proof.Machine.execPow a e s
  | .exp e => Sys2Proof.Machine.execExp e s
  | .log a => Sys2Proof.Machine.execLog a s
  | .prim => Sys2Proof.Machine.execPrim s
  | .pmul => Sys2Proof.Machine.execPmul s
  | .pmono a => Sys2Proof.Machine.execPmono a s
  | .peval a => Sys2Proof.Machine.execPeval a s
  | .pmove => Sys2Proof.Machine.execPmove s

end Sys2Proof.Machine
end

