-- ==== Sys2Proof/Machine/Sequencer.lean ====
section
/-! DEFINITION. The steps of the two agents and of the reset input (spec/10_state.md R13, R18; 30_encoding.md R65;
70_reset_and_hazards.md R131), and whose turn it is. -/

namespace Sys2Proof.Machine

/-- COMPLETE (R65): the pending command's Exec, then BUSY <- 0 and PEND <- none. -/
def completeStep (s : State) : Host.Outcome State Fault Refusal :=
  match s.pend with
  | none => .fault .corruptPending
  | some v =>
    match decode v with
    | .error _ => .fault .corruptPending
    | .ok i =>
      match exec i s with
      | .next t => .next t.retire
      | .fault f => .fault f
      | .refused r => .refused r

/-- A CORE step is enabled (R18); none is while reset is asserted (R131). -/
def State.coreEnabled (s : State) : Bool := !s.inReset && (decide (s.tstate = .init) || s.busy)

/-- CORE's turn: BUILD in INIT, else COMPLETE when BUSY = 1, else nothing is enabled and the turn passes (R18; log
entries 15 and 16). -/
def coreStep (s : State) : Host.Outcome State Fault Refusal :=
  if s.inReset then .next s
  else if s.tstate = .init then .next (build s)
  else if s.busy then completeStep s
  else .next s

/-- The host's next transaction (R13), or nothing if it has none left. -/
def hostStep (s : State) : Host.Outcome State Fault Refusal :=
  match s.host with
  | [] => .next s
  | op :: rest =>
    if s.inReset then .refused .heldInReset
    else match op with
      | .read rel w =>
        match admitAccess rel w with
        | .error r => .refused r
        | .ok off => .next ((s.setHost rest).logRead (busRead off s))
      | .write rel w v =>
        match admitAccess rel w with
        | .error r => .refused r
        | .ok off => .next (busWrite off v (s.setHost rest))
      | .wait =>
        if statusBusy (busRead 0x008 s) then .next (s.logRead (busRead 0x008 s))
        else .next ((s.setHost rest).logRead (busRead 0x008 s))

/-- The falling edge of reset gives every piece of state its reset value (R131). -/
def deassertStep (s : State) : State := if s.inReset then s.restart else s

/-- Whose turn it is: as `sched` says, and after its end CORE's while a CORE step is enabled (R19), else the
host's (log entry 1). -/
def State.nextTurn (s : State) : Turn :=
  match s.sched with
  | t :: _ => t
  | [] => if s.coreEnabled then .core else .host

/-- One turn. -/
def takeTurn (t : Turn) (s : State) : Host.Outcome State Fault Refusal :=
  match t with
  | .host => hostStep s
  | .core => coreStep s
  | .assertReset => .next (s.setInReset true)
  | .deassertReset => .next (deassertStep s)

/-- The next turn, used up once it is taken. -/
def turnStep (s : State) : Host.Outcome State Fault Refusal :=
  match takeTurn s.nextTurn s with
  | .next t => .next t.endTurn
  | .fault f => .fault f
  | .refused r => .refused r

/-- The state whose next step completes the command word v (R64, R65): tables built, v pending, CORE's turn next
(log entry 11). -/
def State.withPending (s : State) (v : Word) : State :=
  { (if s.tstate = .ready then s else s.setTables listedExp listedLog).accept v with
    inReset := false, sched := .core :: s.sched }

end Sys2Proof.Machine
end

