-- ==== Sys2Proof/Machine/Step.lean ====
section
/-! DEFINITION. The step function: one step of one agent in the total order of steps (spec/20_memory.md R50). -/

namespace Sys2Proof.Machine

/-- One step of the machine (R13). -/
def step (s : State) : Host.Outcome State Fault Refusal := turnStep s

/-- The state in which the very next step runs the command whose opcode-table word is w (log entry 11). -/
def State.withFetchWord (s : State) (nbits w : Nat) : State := s.withPending (tableWord nbits w)

end Sys2Proof.Machine
end

