-- ==== Sys2Proof/Machine/Assembler.lean ====
section
/-! DEFINITION. The assembler (spec/30_encoding.md R68, R69) and the host program notation (R70). None of it is the
block's: it builds command words and lists of host transactions. -/

namespace Sys2Proof.Machine

/-- The command an assembler makes of one line: none if an operand is out of range (R68); a pseudo-instruction
expands to exactly one command (R69). -/
def assemble (c : Asm) : Option Instr :=
  if c.wellFormed = false then none
  else some <|
    match c with
    | .add a b => .add (BitVec.ofNat 8 a) (BitVec.ofNat 8 b)
    | .mul a b => .mul (BitVec.ofNat 8 a) (BitVec.ofNat 8 b)
    | .inv a => .inv (BitVec.ofNat 8 a)
    | .pow a e => .pow (BitVec.ofNat 8 a) (BitVec.ofNat 16 e)
    | .exp e => .exp (BitVec.ofNat 16 e)
    | .log a => .log (BitVec.ofNat 8 a)
    | .prim => .prim
    | .pmul => .pmul
    | .pmono a => .pmono (BitVec.ofNat 8 a)
    | .peval a => .peval (BitVec.ofNat 8 a)
    | .pmove => .pmove
    | .sub a b => .add (BitVec.ofNat 8 a) (BitVec.ofNat 8 b)
    | .xor a b => .add (BitVec.ofNat 8 a) (BitVec.ofNat 8 b)
    | .sqr a => .mul (BitVec.ofNat 8 a) (BitVec.ofNat 8 a)
    | .alpha e => .exp (BitVec.ofNat 16 e)

/-! The text of a line, as a list of characters (R68; log entry 18). -/

/-- A decimal digit. -/
def decDigit (c : Char) : Option Nat :=
  if 48 ≤ c.toNat ∧ c.toNat ≤ 57 then some (c.toNat - 48) else none

/-- A hexadecimal digit, in capitals or small letters. -/
def hexDigit (c : Char) : Option Nat :=
  if 65 ≤ c.toNat ∧ c.toNat ≤ 70 then some (c.toNat - 55)
  else if 97 ≤ c.toNat ∧ c.toNat ≤ 102 then some (c.toNat - 87)
  else decDigit c

/-- The number that digits of a base continue. -/
def digits (base : Nat) (digit : Char → Option Nat) : Nat → List Char → Option Nat
  | n, [] => some n
  | n, c :: cs => (digit c).bind (fun d => digits base digit (n * base + d) cs)

/-- An operand: decimal, or hexadecimal after 0x (R68). -/
def operand : List Char → Option Nat
  | [] => none
  | '0' :: 'x' :: c :: cs => digits 16 hexDigit 0 (c :: cs)
  | c :: cs => digits 10 decDigit 0 (c :: cs)

/-- The parts of a line's operand list, separated by a comma and a space (R68). -/
def operandParts : List Char → List (List Char)
  | [] => [[]]
  | ',' :: ' ' :: cs => [] :: operandParts cs
  | c :: cs =>
    match operandParts cs with
    | [] => [[c]]
    | w :: ws => (c :: w) :: ws

/-- A mnemonic with no operand. -/
def noOperand (c : Asm) : List Nat → Option Asm
  | [] => some c
  | _ => none

/-- A mnemonic with one operand. -/
def oneOperand (f : Nat → Asm) : List Nat → Option Asm
  | [a] => some (f a)
  | _ => none

/-- A mnemonic with two operands. -/
def twoOperands (f : Nat → Nat → Asm) : List Nat → Option Asm
  | [a, b] => some (f a b)
  | _ => none

/-- The mnemonics of R68 and R69. -/
def mnemonics : List (List Char × (List Nat → Option Asm)) :=
  [(['A', 'D', 'D'], twoOperands .add), (['M', 'U', 'L'], twoOperands .mul),
   (['I', 'N', 'V'], oneOperand .inv), (['P', 'O', 'W'], twoOperands .pow),
   (['E', 'X', 'P'], oneOperand .exp), (['L', 'O', 'G'], oneOperand .log),
   (['P', 'R', 'I', 'M'], noOperand .prim), (['P', 'M', 'U', 'L'], noOperand .pmul),
   (['P', 'M', 'O', 'N', 'O'], oneOperand .pmono), (['P', 'E', 'V', 'A', 'L'], oneOperand .peval),
   (['P', 'M', 'O', 'V', 'E'], noOperand .pmove), (['S', 'U', 'B'], twoOperands .sub),
   (['X', 'O', 'R'], twoOperands .xor), (['S', 'Q', 'R'], oneOperand .sqr),
   (['A', 'L', 'P', 'H', 'A'], oneOperand .alpha)]

/-- A line: `MNEMONIC`, then its operands after a space (R68). -/
def parseLine (line : List Char) : Option Asm :=
  let name := line.takeWhile (fun c => c != ' ')
  let args :=
    match line.drop name.length with
    | [] => some []
    | _ :: cs => (operandParts cs).mapM operand
  (mnemonics.find? (fun m => m.1 == name)).bind (fun m => args.bind m.2)

/-- The command word of a line, or none if the assembler rejects it. -/
def assembleLine (line : List Char) : Option Word := ((parseLine line).bind assemble).map encode

/-! The host program notation (R70). -/

/-- `W off, v`. -/
def hostW (off : Nat) (v : Word) : HostOp := .write off .word v

/-- `R off`. -/
def hostR (off : Nat) : HostOp := .read off .word

/-- `C <command>`. -/
def hostC (i : Instr) : HostOp := hostW 0x00C (encode i)

/-- `WAIT`. -/
def hostWait : HostOp := .wait

/-- `loop i = lo..hi`, unrolled by the host. -/
def hostLoop (lo hi : Nat) (body : Nat → List HostOp) : List HostOp :=
  (List.range' lo (hi + 1 - lo)).flatMap body

end Sys2Proof.Machine
end

