-- ==== Sys2Proof/Safety.lean ====
section
/-! DEFINITION. What a safe run is, in the terms the statements use. -/

namespace Sys2Proof.Machine

/-- The number of cells of a memory (spec/10_state.md R15). -/
def cellCount : Store → Nat
  | .exp => 255
  | .log => 256
  | .p => 256
  | .q => 256
  | .r => 256

/-- The machine's invariant: what holds after reset and what every step keeps. -/
structure State.Inv (s : State) : Prop where
  /-- Every memory is in canonical form. -/
  wf : ∀ m : Store, (s.mem m).wf = true
  /-- No memory has a cell outside its size (R15). -/
  bounded : ∀ m : Store, (s.mem m).below (cellCount m) = true
  /-- LOG[0] holds no value (R24). -/
  logZero : s.logTab.read 0 = none
  /-- The tables are the generator's while TSTATE = READY (R24, R91). -/
  tables : s.tstate = .ready → s.expTab = builtExp ∧ s.logTab = builtLog
  /-- The check of this hardware's tables never fails (R92). -/
  notFailed : s.tstate ≠ .cfgFail
  /-- PEND holds a word exactly while BUSY = 1 (R17). -/
  busyPend : s.busy = s.pend.isSome
  /-- Only a legal word is ever pending (R64). -/
  pendLegal : ∀ v, s.pend = some v → legal v = true
  /-- A command is pending only while TSTATE = READY (R18, R64). -/
  busyReady : s.busy = true → s.tstate = .ready
  /-- ERR is 1 exactly when ECODE names an error (R23, R116). -/
  errCode : s.err = true ↔ s.ecode ≠ 0#4
  /-- ECODE values 9 to 15 are never recorded (R114, U8). -/
  codeRange : s.ecode.toNat ≤ 8
  /-- RLEN is never above 256 (R104). -/
  rlenRange : s.rlen.toNat ≤ 256
  /-- Every RBUF entry below RLEN holds a value (R101, R104). -/
  productHeld : ∀ i, i < s.rlen.toNat → ((s.rbuf.read i).isSome = true)

/-- A transaction that has a step: a 32-bit access at an aligned offset of the window (R39, R41 to R43). -/
def HostOp.admitted : HostOp → Bool
  | .read rel w => decide (0 ≤ rel ∧ rel < 0x1000 ∧ rel % 4 = 0 ∧ w = .word)
  | .write rel w _ => decide (0 ≤ rel ∧ rel < 0x1000 ∧ rel % 4 = 0 ∧ w = .word)
  | .wait => true

/-- The environment asks only for steps that exist: every transaction is admitted, and reset is neither asserted nor
about to be (R42, R131). -/
structure State.Served (s : State) : Prop where
  admitted : ∀ op ∈ s.host, op.admitted = true
  running : s.inReset = false
  steady : Turn.assertReset ∉ s.sched

/-- The end of a run (70_reset_and_hazards.md R141): no host step left, BUSY = 0, TSTATE not INIT. -/
def State.Finished (s : State) : Prop := s.host = [] ∧ s.busy = false ∧ s.tstate ≠ .init

/-- The state agrees with t on everything the block holds; the environment's inputs, the host's record of its reads
and the step number are not the block's. -/
def State.SameBlock (s t : State) : Prop :=
  { s with host := t.host, sched := t.sched, reads := t.reads, stepNo := t.stepNo } = t

/-- The states reached in n steps, if no step stops. -/
def reachIn : Nat → State → Option State
  | 0, s => some s
  | n + 1, s =>
    match step s with
    | .next t => reachIn n t
    | .fault _ => none
    | .refused _ => none

end Sys2Proof.Machine
end

