-- ==== Sys2Proof/Certificates/Slice0/Obligations.lean ====
section
/-! DEFINITION. The statements for the provers: def Obligations.<Name> : Prop. Their list is OBLIGATIONS.json. -/

open Sys2Proof Sys2Proof.Machine

/-! Reset and the invariant. -/

/-- 10_state.md R35: the reset value of every piece of state that has one, and the STATUS words the rule derives. The
unspecified table cells are not stated, but for LOG[0], which never holds a value. -/
def Obligations.ResetValues : Prop :=
  State.reset.tstate = .init ∧ State.reset.logTab.read 0 = none ∧ State.reset.busy = false ∧
  State.reset.pend = none ∧ State.reset.err = false ∧ State.reset.ecode = 0#4 ∧ State.reset.result = 0x00#8 ∧
  State.reset.plen = 0#9 ∧ State.reset.qlen = 0#9 ∧ State.reset.rlen = 0#9 ∧
  (∀ i, State.reset.pbuf.read i = none ∧ State.reset.qbuf.read i = none ∧ State.reset.rbuf.read i = none) ∧
  busRead 0x000 State.reset = 0x0002011D#32 ∧ busRead 0x004 State.reset = 0x00100100#32 ∧
  busRead 0x008 State.reset = 0x00000000#32 ∧
  busRead 0x008 (build State.reset) = 0x00000001#32 ∧
  (∀ poly prim, checkTable (candidate poly prim) = false →
    busRead 0x008 (buildWith poly prim State.reset) = 0x0000008C#32)

/-- The invariant holds right after reset. It rests on log entry 6 for the table cells. -/
def Obligations.ResetMeetsTheInvariant : Prop := State.reset.Inv

/-- Every step keeps the invariant, whatever the host and the schedule do. -/
def Obligations.StepKeepsTheInvariant : Prop :=
  ∀ s t : State, s.Inv → step s = .next t → t.Inv

/-- Where the environment asks only for steps that exist, no step faults and none is refused, and that stays so. A
turn with no step to take passes, which is the model's choice (log entry 15). -/
def Obligations.ServedStateNeverStops : Prop :=
  ∀ s : State, s.Inv → s.Served → ∃ t, step s = .next t ∧ t.Inv ∧ t.Served

/-- An enabled CORE step is taken, the model's form of 10_state.md R19, which sets no bound. That CORE moves at the
latest once the schedule has ended, and so the bound, is the model's choice (log entry 1); so is that a turn with no
step to take passes (log entry 15). -/
def Obligations.EnabledCoreStepIsTaken : Prop :=
  ∀ s : State, s.Inv → s.Served → s.coreEnabled = true →
    ∃ n t, 1 ≤ n ∧ n ≤ s.sched.length + 1 ∧ reachIn n s = some t ∧ t.coreEnabled = false

/-- 70_reset_and_hazards.md R131: while reset is asserted, a turn of CORE does nothing and a host transaction has no
step; when it is deasserted every piece of the block's state holds its reset value. The two turns
are the model's form of the reset input (log entry 10); that the table cells are empty again is its choice (log
entry 6). -/
def Obligations.ResetInput : Prop :=
  ∀ s : State,
    (s.nextTurn = .assertReset → step s = .next (s.setInReset true).endTurn) ∧
    (s.inReset = true → s.nextTurn = .core → step s = .next s.endTurn) ∧
    (s.inReset = true → s.nextTurn = .host → s.host ≠ [] → step s = .refused .heldInReset) ∧
    (s.inReset = true → s.nextTurn = .deassertReset →
      ∃ t, step s = .next t ∧ t.SameBlock State.reset)

/-! The steps. -/

/-- 30_encoding.md R65: when CORE has the turn and a legal command is pending, the step is that command's Exec, and then
BUSY = 0 and PEND = none; around it the model's own turn is used up. -/
def Obligations.StepRunsThePendingCommand : Prop :=
  ∀ (s : State) (v : Word) (i : Instr), s.inReset = false → s.nextTurn = .core → s.tstate = .ready → s.busy = true →
    s.pend = some v → decode v = .ok i →
    (∀ t, exec i s = .next t → step s = .next
      { t with busy := false, pend := none, sched := t.sched.tail, stepNo := t.stepNo + 1 }) ∧
    (∀ f, exec i s = .fault f → step s = .fault f) ∧ (∀ r, exec i s = .refused r → step s = .refused r)

/-- The command of an opcode-table word is the very next step after withFetchWord, from every state. withFetchWord is
the model's own (log entry 11). -/
def Obligations.FetchWordRunsNext : Prop :=
  ∀ (s : State) (w : Nat) (i : Instr), decodeTableWord 32 w = some i →
    ∃ t, exec i (s.withFetchWord 32 w) = .next t ∧ step (s.withFetchWord 32 w) = .next t.retire.endTurn

/-- 10_state.md R18: BUILD is enabled exactly when TSTATE = INIT, COMPLETE exactly when BUSY = 1, never both; CORE's turn
takes the enabled one. If none is enabled the turn passes, which is the model's choice (log entry 15). -/
def Obligations.EnabledCoreSteps : Prop :=
  ∀ s : State, s.Inv → s.inReset = false →
    ¬(s.tstate = .init ∧ s.busy = true) ∧
    (s.tstate = .init → coreStep s = .next (build s)) ∧
    (s.busy = true → coreStep s = completeStep s ∧ ∃ t, completeStep s = .next t ∧ t.busy = false ∧ t.pend = none) ∧
    (s.tstate ≠ .init → s.busy = false → coreStep s = .next s)

/-- 20_memory.md R47: a read of the host (BusRead, or WAIT's poll of STATUS) changes nothing that the block holds.`reads` is the
model's own record (log entry 3). -/
def Obligations.ReadsHaveNoSideEffect : Prop :=
  ∀ (s t : State) (op : HostOp) (rest : List HostOp), s.nextTurn = .host → s.host = op :: rest →
    (∀ rel w v, op ≠ .write rel w v) → step s = .next t → t.SameBlock s ∧ ∃ v, t.reads = v :: s.reads

/-- 20_memory.md R44, R45: an admitted read is one step that returns BusRead's value; `reads` is the model's own record
(log entry 3). -/
def Obligations.AdmittedReadStep : Prop :=
  ∀ (s : State) (off : Nat) (rest : List HostOp), s.inReset = false → s.nextTurn = .host → off < 0x1000 → off % 4 = 0 →
    s.host = .read off .word :: rest →
    step s = .next { s with
      host := rest, reads := busRead off s :: s.reads, sched := s.sched.tail, stepNo := s.stepNo + 1 }

/-- 20_memory.md R44, R46: an admitted write is one step that performs BusWrite. -/
def Obligations.AdmittedWriteStep : Prop :=
  ∀ (s : State) (off : Nat) (v : Word) (rest : List HostOp), s.inReset = false → s.nextTurn = .host → off < 0x1000 →
    off % 4 = 0 → s.host = .write off .word v :: rest →
    ∃ t, step s = .next t ∧ t.SameBlock (busWrite off v s) ∧
      t.host = rest ∧ t.sched = s.sched.tail ∧ t.reads = s.reads ∧ t.stepNo = s.stepNo + 1

/-- 30_encoding.md R70: WAIT polls STATUS once a step, and ends at the first poll that reads s[1] = 0.`reads` is the
model's own record (log entry 3). -/
def Obligations.WaitPollsBusy : Prop :=
  ∀ (s : State) (rest : List HostOp), s.inReset = false → s.nextTurn = .host → s.host = .wait :: rest →
    ∃ t, step s = .next t ∧ t.reads = busRead 0x008 s :: s.reads ∧
      (s.busy = true → t.host = .wait :: rest) ∧ (s.busy = false → t.host = rest)

/-- 20_memory.md R39, R41, R43 and 10_state.md R20: which bus addresses reach the block, and their offsets; BASE is a
multiple of 0x1000. The refusal of an access outside the window, its name and that the window is checked before width
and alignment are the model's choice (log entry 8); relOf is its form of an address (log entry 9). -/
def Obligations.WindowAddresses : Prop :=
  Config.base % 0x1000 = 0 ∧
  (∀ addr : Nat, (∃ off, admitAccess (relOf addr) .word = .ok off) ↔
    (Config.base ≤ addr ∧ addr < Config.base + 0x1000 ∧ (addr - Config.base) % 4 = 0)) ∧
  (∀ (addr off : Nat) (w : Width), admitAccess (relOf addr) w = .ok off → off = addr - Config.base ∧ w = .word) ∧
  (∀ (addr : Nat) (w : Width), (addr < Config.base ∨ Config.base + 0x1000 ≤ addr) →
    admitAccess (relOf addr) w = .error .outsideWindow)

/-- 20_memory.md R42: a misaligned or sub-word access inside the window has no step. -/
def Obligations.MisalignedOrSubWordHasNoStep : Prop :=
  ∀ (s : State) (rel : Int) (w : Width) (v : Word) (rest : List HostOp), s.nextTurn = .host → s.inReset = false →
    (rel % 4 ≠ 0 ∨ w ≠ .word) → (s.host = .read rel w :: rest ∨ s.host = .write rel w v :: rest) →
    ∃ r, step s = .refused r

/-! The bus primitives. -/

/-- 20_memory.md R45: BusRead, offset by offset. That the draw of a hidden offset in the BUSY window is Config.freeWord
of the step number is the model's choice (log entry 4). -/
def Obligations.BusReadByOffset : Prop :=
  ∀ s : State,
    busRead 0x000 s = 0x0002011D#32 ∧ busRead 0x004 s = 0x00100100#32 ∧
    busRead 0x008 s = 0#24 ++ s.ecode ++ BitVec.ofBool s.err ++ BitVec.ofBool (s.tstate == .cfgFail) ++
      BitVec.ofBool s.busy ++ BitVec.ofBool (s.tstate == .ready) ∧
    busRead 0x00C s = 0#32 ∧ (∀ off, 0x020 ≤ off → off < 0x400 → busRead off s = 0#32) ∧
    (s.busy = false →
      busRead 0x010 s = s.result.setWidth 32 ∧ busRead 0x014 s = s.plen.setWidth 32 ∧
      busRead 0x018 s = s.qlen.setWidth 32 ∧ busRead 0x01C s = s.rlen.setWidth 32 ∧
      ∀ i v, i < 256 →
        (s.pbuf.read i = some v → busRead (0x400 + 4 * i) s = v.setWidth 32) ∧
        (s.qbuf.read i = some v → busRead (0x800 + 4 * i) s = v.setWidth 32) ∧
        (s.rbuf.read i = some v → busRead (0xC00 + 4 * i) s = v.setWidth 32)) ∧
    (s.busy = true → ∀ off, (off = 0x010 ∨ off = 0x014 ∨ off = 0x018 ∨ off = 0x01C ∨ (0x400 ≤ off ∧ off ≤ 0xFFC)) →
      busRead off s = Config.freeWord s.stepNo)

/-- The model's choice for U2 (log entries 4 and 5): an entry that holds no value reads as a free value, one for each
step, buffer and entry, zero-extended. -/
def Obligations.EmptyEntryReadsFree : Prop :=
  ∀ (s : State) (i : Nat), s.busy = false → i < 256 →
    (s.pbuf.read i = none → busRead (0x400 + 4 * i) s = (Config.freeCell s.stepNo .p i).setWidth 32) ∧
    (s.qbuf.read i = none → busRead (0x800 + 4 * i) s = (Config.freeCell s.stepNo .q i).setWidth 32) ∧
    (s.rbuf.read i = none → busRead (0xC00 + 4 * i) s = (Config.freeCell s.stepNo .r i).setWidth 32)

/-- 20_memory.md R46: BusWrite, offset by offset; each clause says everything that changes. -/
def Obligations.BusWriteByOffset : Prop :=
  ∀ (s : State) (v : Word),
    (v.getLsbD 3 = true → busWrite 0x008 v s = { s with err := false, ecode := 0#4 }) ∧
    (v.getLsbD 3 = false → busWrite 0x008 v s = s) ∧
    busWrite 0x00C v s = issue v s ∧
    (s.busy = false →
      busWrite 0x014 v s = { s with plen := v.extractLsb' 0 9 } ∧
      busWrite 0x018 v s = { s with qlen := v.extractLsb' 0 9 } ∧
      ∀ i, i < 256 →
        (∃ m, busWrite (0x400 + 4 * i) v s = { s with pbuf := m } ∧ m.read i = some (v.extractLsb' 0 8) ∧
          ∀ j, j ≠ i → m.read j = s.pbuf.read j) ∧
        (∃ m, busWrite (0x800 + 4 * i) v s = { s with qbuf := m } ∧ m.read i = some (v.extractLsb' 0 8) ∧
          ∀ j, j ≠ i → m.read j = s.qbuf.read j)) ∧
    (s.busy = true → ∀ off, (off = 0x014 ∨ off = 0x018 ∨ (0x400 ≤ off ∧ off < 0xC00)) →
      busWrite off v s = { s with err := true, ecode := 3#4 }) ∧
    (∀ off, off < 0x1000 → off % 4 = 0 →
      (off < 0x008 ∨ off = 0x010 ∨ (0x01C ≤ off ∧ off < 0x400) ∨ 0xC00 ≤ off) → busWrite off v s = s)

/-- 30_encoding.md R64: issue, its checks in order; a refused word changes only ERR and ECODE. -/
def Obligations.IssueChecksInOrder : Prop :=
  ∀ (s : State) (v : Word),
    (s.tstate ≠ .ready → busWrite 0x00C v s = { s with err := true, ecode := 2#4 }) ∧
    (s.tstate = .ready → s.busy = true → busWrite 0x00C v s = { s with err := true, ecode := 3#4 }) ∧
    (s.tstate = .ready → s.busy = false → legal v = false →
      busWrite 0x00C v s = { s with err := true, ecode := 1#4 }) ∧
    (s.tstate = .ready → s.busy = false → legal v = true →
      busWrite 0x00C v s = { s with busy := true, pend := some v })

/-- 20_memory.md R38: no host transaction reads or writes EXP or LOG. -/
def Obligations.TablesHaveNoHostAddress : Prop :=
  (∀ (s : State) (off : Nat) (e l : Memory), busRead off { s with expTab := e, logTab := l } = busRead off s) ∧
  (∀ (s t : State), s.nextTurn = .host → step s = .next t → t.expTab = s.expTab ∧ t.logTab = s.logTab)

/-- 20_memory.md R51: while a command is pending, no step of the host changes what the command will read. -/
def Obligations.PendingOperandsAreStable : Prop :=
  ∀ s t : State, s.nextTurn = .host → s.busy = true → step s = .next t →
    t.plen = s.plen ∧ t.qlen = s.qlen ∧ t.rlen = s.rlen ∧ t.pbuf = s.pbuf ∧ t.qbuf = s.qbuf ∧ t.rbuf = s.rbuf ∧
    t.expTab = s.expTab ∧ t.logTab = s.logTab ∧ t.result = s.result ∧ t.busy = true ∧ t.pend = s.pend

/-! Encoding. -/

/-- 30_encoding.md R61, R62: words written out from the encoding table decode to their commands. -/
def Obligations.TableWordsDecode : Prop :=
  decode 0x01020004#32 = .ok (.add 0x02#8 0x04#8) ∧ decode 0x025300CA#32 = .ok (.mul 0x53#8 0xCA#8) ∧
  decode 0x03530000#32 = .ok (.inv 0x53#8) ∧ decode 0x0407012C#32 = .ok (.pow 0x07#8 300#16) ∧
  decode 0x0500FFFF#32 = .ok (.exp 65535#16) ∧ decode 0x068E0000#32 = .ok (.log 0x8E#8) ∧
  decode 0x07000000#32 = .ok .prim ∧ decode 0x08000000#32 = .ok .pmul ∧
  decode 0x09020000#32 = .ok (.pmono 0x02#8) ∧ decode 0x0A030000#32 = .ok (.peval 0x03#8) ∧
  decode 0x0B000000#32 = .ok .pmove ∧
  decode 0x11020004#32 = .error .reservedBits ∧ decode 0x0C000000#32 = .error .opcode ∧
  decode 0x00000000#32 = .error .opcode ∧ decode 0x01020104#32 = .error .unusedField

/-- Decoding the encoding of any command gives it back, with every operand at every value, on the word and on its four
byte lanes; and its word is legal. -/
def Obligations.DecodeOfEncode : Prop :=
  ∀ i : Instr, decode (encode i) = .ok i ∧ legal (encode i) = true ∧
    ∀ rest, decodeBytes (encodeBytes i ++ rest) = .ok (i, rest)

/-- 30_encoding.md R66: every word is either exactly one legal command, whose encoding it is, or illegal. -/
def Obligations.EveryWordIsOneCommandOrIllegal : Prop :=
  ∀ v : Word,
    (legal v = true ∧ ∃ i, decode v = .ok i ∧ encode i = v ∧ ∀ j, encode j = v → j = i) ∨
    (legal v = false ∧ (∃ e, decode v = .error e) ∧ ∀ j, encode j ≠ v)

/-- 30_encoding.md R62: the case form and the match and mask form of legality agree, and no legal word matches two
rows. -/
def Obligations.LegalIsMatchAndMask : Prop :=
  (∀ v : Word, legal v = true ↔ ∃ o : Op, v &&& o.mask = o.pattern) ∧
  (∀ (v : Word) (o o' : Op), v &&& o.mask = o.pattern → v &&& o'.mask = o'.pattern → o = o')

/-- 30_encoding.md R68: the word of every command, and the rejection of an operand out of range; R69: each
pseudo-instruction is the one command it names. -/
def Obligations.AssemblerWordsAndPseudoInstructions : Prop :=
  (∀ a b, a ≤ 255 → b ≤ 255 →
    (assemble (.add a b)).map encode = some (BitVec.ofNat 32 (0x01000000 + a * 65536 + b)) ∧
    (assemble (.mul a b)).map encode = some (BitVec.ofNat 32 (0x02000000 + a * 65536 + b)) ∧
    (assemble (.inv a)).map encode = some (BitVec.ofNat 32 (0x03000000 + a * 65536)) ∧
    (assemble (.log a)).map encode = some (BitVec.ofNat 32 (0x06000000 + a * 65536)) ∧
    (assemble (.pmono a)).map encode = some (BitVec.ofNat 32 (0x09000000 + a * 65536)) ∧
    (assemble (.peval a)).map encode = some (BitVec.ofNat 32 (0x0A000000 + a * 65536)) ∧
    assemble (.sub a b) = assemble (.add a b) ∧ assemble (.xor a b) = assemble (.add a b) ∧
    assemble (.sqr a) = assemble (.mul a a)) ∧
  (∀ a e, a ≤ 255 → e ≤ 65535 →
    (assemble (.pow a e)).map encode = some (BitVec.ofNat 32 (0x04000000 + a * 65536 + e)) ∧
    (assemble (.exp e)).map encode = some (BitVec.ofNat 32 (0x05000000 + e)) ∧
    assemble (.alpha e) = assemble (.exp e)) ∧
  ((assemble .prim).map encode = some 0x07000000#32 ∧ (assemble .pmul).map encode = some 0x08000000#32 ∧
    (assemble .pmove).map encode = some 0x0B000000#32) ∧
  (∀ a b, 255 < a ∨ 255 < b → assemble (.add a b) = none ∧ assemble (.mul a b) = none ∧
    assemble (.sub a b) = none ∧ assemble (.xor a b) = none) ∧
  (∀ a, 255 < a → assemble (.inv a) = none ∧ assemble (.log a) = none ∧ assemble (.pmono a) = none ∧
    assemble (.peval a) = none ∧ assemble (.sqr a) = none) ∧
  (∀ a e, 255 < a ∨ 65535 < e → assemble (.pow a e) = none) ∧
  (∀ e, 65535 < e → assemble (.exp e) = none ∧ assemble (.alpha e) = none)

/-! The Field Engine and the table lookups: each result statement is also the command's completion and its frame. -/

/-- 40_field.md R76: ADD. -/
def Obligations.AddIsXor : Prop :=
  (∀ v : Word, v &&& 0xFF00FF00#32 = 0x01000000#32 →
    decode v = .ok (.add (v.extractLsb' 16 8) (v.extractLsb' 0 8))) ∧
  (∀ (a b : Byte) (s : State), exec (.add a b) s = .next { s with result := a ^^^ b }) ∧
  (∀ (a : Byte) (s : State), exec (.add a a) s = .next { s with result := 0#8 } ∧
    exec (.add a 0#8) s = .next { s with result := a }) ∧
  (∀ s : State, decode 0x01020004#32 = .ok (.add 0x02#8 0x04#8) ∧
    exec (.add 0x02#8 0x04#8) s = .next { s with result := 0x06#8 }) ∧
  (∀ (a b : Byte) (s : State), legal (encode (.add a b)) = true ∧
    (s.tstate ≠ .ready → busWrite 0x00C (encode (.add a b)) s = { s with err := true, ecode := 2#4 }) ∧
    (s.tstate = .ready → s.busy = true →
      busWrite 0x00C (encode (.add a b)) s = { s with err := true, ecode := 3#4 }))

/-- 40_field.md R77: MUL by the tables; a zero operand reads no table. -/
def Obligations.MulByTables : Prop :=
  (∀ v : Word, v &&& 0xFF00FF00#32 = 0x02000000#32 →
    decode v = .ok (.mul (v.extractLsb' 16 8) (v.extractLsb' 0 8))) ∧
  (∀ (a b : Byte) (s : State), (a = 0#8 ∨ b = 0#8) → exec (.mul a b) s = .next { s with result := 0#8 }) ∧
  (∀ (a b : Byte) (s : State), s.Inv → s.tstate = .ready → a ≠ 0#8 → b ≠ 0#8 →
    ∃ la lb x, s.logTab.read a.toNat = some la ∧ s.logTab.read b.toNat = some lb ∧ la.toNat + lb.toNat ≤ 508 ∧
      s.expTab.read ((la.toNat + lb.toNat) % 255) = some x ∧ exec (.mul a b) s = .next { s with result := x }) ∧
  (∀ (a : Byte) (s : State), s.Inv → s.tstate = .ready →
    exec (.mul a 1#8) s = .next { s with result := a } ∧
    exec (.mul 0x80#8 0x02#8) s = .next { s with result := 0x1D#8 } ∧
    exec (.mul 0x02#8 0x04#8) s = .next { s with result := 0x08#8 })

/-- 40_field.md R78: for this hardware MUL is the reference product, for all 65536 pairs. -/
def Obligations.MulIsReferenceProduct : Prop :=
  ∀ (a b : Byte) (s : State), s.Inv → s.tstate = .ready →
    exec (.mul a b) s = .next { s with result := clmulMod 0x11D#9 a b }

/-- 40_field.md R79: PRIM. -/
def Obligations.PrimGivesThePrimitiveElement : Prop :=
  (∀ v : Word, v &&& 0xFFFFFFFF#32 = 0x07000000#32 → decode v = .ok .prim) ∧
  (∀ s : State, exec .prim s = .next { s with result := 0x02#8 }) ∧
  (∀ s : State, (busRead 0x000 s).extractLsb' 16 8 = 0x02#8) ∧
  (∀ s : State, s.Inv → s.tstate = .ready → s.expTab.read 1 = some 0x02#8) ∧
  (∀ s : State, s.tstate = .cfgFail → busWrite 0x00C 0x07000000#32 s = { s with err := true, ecode := 2#4 })

/-- 40_field.md R80: POW, with the source's convention at 0 and the exact exponent product. -/
def Obligations.PowByTables : Prop :=
  (∀ v : Word, v &&& 0xFF000000#32 = 0x04000000#32 →
    decode v = .ok (.pow (v.extractLsb' 16 8) (v.extractLsb' 0 16))) ∧
  (∀ s : State, exec (.pow 0#8 0#16) s = .next { s with result := 1#8 }) ∧
  (∀ (e : Exponent) (s : State), e ≠ 0#16 → exec (.pow 0#8 e) s = .next { s with result := 0#8 }) ∧
  (∀ (a : Byte) (e : Exponent) (s : State), s.Inv → s.tstate = .ready → a ≠ 0#8 →
    ∃ la x, s.logTab.read a.toNat = some la ∧ la.toNat ≤ 254 ∧ s.expTab.read (la.toNat * e.toNat % 255) = some x ∧
      exec (.pow a e) s = .next { s with result := x }) ∧
  (∀ (a : Byte) (e : Exponent) (s : State), s.Inv → s.tstate = .ready →
    exec (.pow a 0#16) s = .next { s with result := 1#8 } ∧
    exec (.pow 1#8 e) s = .next { s with result := 1#8 } ∧
    (a ≠ 0#8 → e.toNat % 255 = 0 → exec (.pow a e) s = .next { s with result := 1#8 }) ∧
    exec (.pow 0x02#8 256#16) s = .next { s with result := 0x02#8 } ∧
    exec (.pow 0x02#8 8#16) s = .next { s with result := 0x1D#8 })

/-- 40_field.md R81: INV, DIV_ZERO exactly when A = 0, and the product with the inverse is 1. -/
def Obligations.InvByTables : Prop :=
  (∀ v : Word, v &&& 0xFF00FFFF#32 = 0x03000000#32 → decode v = .ok (.inv (v.extractLsb' 16 8))) ∧
  (∀ s : State, exec (.inv 0#8) s = .next { s with err := true, ecode := 4#4 }) ∧
  (∀ (a : Byte) (s : State), s.Inv → s.tstate = .ready → a ≠ 0#8 →
    ∃ la x, s.logTab.read a.toNat = some la ∧ s.expTab.read ((255 - la.toNat) % 255) = some x ∧
      exec (.inv a) s = .next { s with result := x } ∧
      exec (.mul a x) s = .next { s with result := 1#8 }) ∧
  (∀ s : State, s.Inv → s.tstate = .ready →
    exec (.inv 1#8) s = .next { s with result := 1#8 } ∧
    exec (.inv 0x02#8) s = .next { s with result := 0x8E#8 } ∧
    exec (.inv 0x8E#8) s = .next { s with result := 0x02#8 } ∧
    exec (.inv 0x53#8) s = .next { s with result := 0x8C#8 })

/-- 41_tables.md R94: EXP reads one antilog entry, for every 16-bit exponent, and agrees with POW 0x02. -/
def Obligations.ExpReadsTheAntilog : Prop :=
  (∀ v : Word, v &&& 0xFFFF0000#32 = 0x05000000#32 → decode v = .ok (.exp (v.extractLsb' 0 16))) ∧
  (∀ (e : Exponent) (s : State), s.Inv → s.tstate = .ready →
    ∃ x, s.expTab.read (e.toNat % 255) = some x ∧ exec (.exp e) s = .next { s with result := x } ∧
      exec (.pow 0x02#8 e) s = .next { s with result := x }) ∧
  (∀ s : State, s.Inv → s.tstate = .ready →
    exec (.exp 0#16) s = .next { s with result := 0x01#8 } ∧
    exec (.exp 255#16) s = .next { s with result := 0x01#8 } ∧
    exec (.exp 254#16) s = .next { s with result := 0x8E#8 } ∧
    exec (.exp 256#16) s = .next { s with result := 0x02#8 } ∧
    exec (.exp 65535#16) s = .next { s with result := 0x01#8 } ∧
    exec (.exp 25#16) s = .next { s with result := 0x03#8 })

/-- 41_tables.md R95: LOG reads one log entry, LOG_ZERO exactly when A = 0; the result is never 255. -/
def Obligations.LogReadsTheLog : Prop :=
  (∀ v : Word, v &&& 0xFF00FFFF#32 = 0x06000000#32 → decode v = .ok (.log (v.extractLsb' 16 8))) ∧
  (∀ s : State, exec (.log 0#8) s = .next { s with err := true, ecode := 5#4 }) ∧
  (∀ (a : Byte) (s : State), s.Inv → s.tstate = .ready → a ≠ 0#8 →
    ∃ x, s.logTab.read a.toNat = some x ∧ x ≠ 255#8 ∧ exec (.log a) s = .next { s with result := x }) ∧
  (∀ s : State, s.Inv → s.tstate = .ready →
    exec (.log 0x01#8) s = .next { s with result := 0#8 } ∧
    exec (.log 0x02#8) s = .next { s with result := 1#8 } ∧
    exec (.log 0x8E#8) s = .next { s with result := 254#8 } ∧
    exec (.log 0x03#8) s = .next { s with result := 0x19#8 })

/-- 41_tables.md R91, R92: BUILD for any generating polynomial and primitive element. T[i] is PRIM^i by the reference
product; the tables are written exactly when the 255 values are nonzero and distinct, and nothing else changes. That a
failed check leaves EXP and LOG as they were is the model's choice (log entry 6): R92 leaves them unspecified. -/
def Obligations.BuildWalksThePowers : Prop :=
  ∀ (poly : BitVec 9) (prim : Byte) (s : State),
    ((∀ i, i < 255 → (fun x => clmulMod poly x prim)^[i] 1#8 ≠ 0#8) ∧
      (∀ i j, i < j → j < 255 →
        (fun x => clmulMod poly x prim)^[i] 1#8 ≠ (fun x => clmulMod poly x prim)^[j] 1#8) →
      ∃ e l, buildWith poly prim s = { s with tstate := .ready, expTab := e, logTab := l } ∧ l.read 0 = none ∧
        ∀ i, i < 255 → e.read i = some ((fun x => clmulMod poly x prim)^[i] 1#8) ∧
          l.read ((fun x => clmulMod poly x prim)^[i] 1#8).toNat = some (BitVec.ofNat 8 i)) ∧
    (¬((∀ i, i < 255 → (fun x => clmulMod poly x prim)^[i] 1#8 ≠ 0#8) ∧
      (∀ i j, i < j → j < 255 →
        (fun x => clmulMod poly x prim)^[i] 1#8 ≠ (fun x => clmulMod poly x prim)^[j] 1#8)) →
      buildWith poly prim s = { s with tstate := .cfgFail, err := true, ecode := 8#4 })

/-- 41_tables.md R93: the tables of this hardware, whenever TSTATE = READY. -/
def Obligations.TablesAreInverse : Prop :=
  ∀ s : State, s.Inv → s.tstate = .ready →
    (∀ e : Byte, e ≠ 0#8 → ∃ i : Byte, s.logTab.read e.toNat = some i ∧ i.toNat < 255 ∧
      s.expTab.read i.toNat = some e) ∧
    (∀ i, i < 255 → ∃ x : Byte, s.expTab.read i = some x ∧ x ≠ 0#8 ∧ s.logTab.read x.toNat = some (BitVec.ofNat 8 i)) ∧
    s.logTab.read 1 = some 0#8 ∧ s.expTab.read 0 = some 1#8 ∧ s.expTab.read 1 = some 0x02#8 ∧
    s.logTab.read 2 = some 1#8 ∧ s.expTab.read 8 = some 0x1D#8

/-- 40_field.md R82: the field laws, for the functions MUL and POW compute once the tables are built. -/
def Obligations.FieldLaws : Prop :=
  ∀ s : State, s.Inv → s.tstate = .ready → ∀ a b c : Byte,
    gfAdd (gfAdd a b) c = gfAdd a (gfAdd b c) ∧ gfAdd a b = gfAdd b a ∧ gfAdd a 0#8 = a ∧ gfAdd a a = 0#8 ∧
    s.gfMul a b = s.gfMul b a ∧ s.gfMul (s.gfMul a b) c = s.gfMul a (s.gfMul b c) ∧ s.gfMul a 1#8 = a ∧
    s.gfMul a 0#8 = 0#8 ∧
    s.gfMul a (gfAdd b c) = gfAdd (s.gfMul a b) (s.gfMul a c) ∧
    (s.gfMul a b = 0#8 → a = 0#8 ∨ b = 0#8) ∧
    (∀ e1 e2, s.gfPow a (e1 + e2) = s.gfMul (s.gfPow a e1) (s.gfPow a e2)) ∧
    (a ≠ 0#8 → ∀ e, s.gfPow a e = s.gfPow a (e % 255))

/-! The Polynomial Engine. -/

/-- 42_polynomial.md R101: PMUL's product. Every coefficient below n is the convolution sum, the others of RBUF are as
before, RLEN = n, and nothing else changes; an entry that holds no value enters as a free value, the model's choice (log
entries 4 and 5). -/
def Obligations.PmulIsTheConvolution : Prop :=
  (∀ v : Word, v &&& 0xFFFFFFFF#32 = 0x08000000#32 → decode v = .ok .pmul) ∧
  (∀ s : State, 1 ≤ s.plen.toNat → s.plen.toNat ≤ 256 → 1 ≤ s.qlen.toNat → s.qlen.toNat ≤ 256 →
    s.plen.toNat + s.qlen.toNat - 1 ≤ 256 →
    ∃ m n, exec .pmul s = .next { s with rbuf := m, rlen := n } ∧ n.toNat = s.plen.toNat + s.qlen.toNat - 1 ∧
      (∀ k, k < n.toNat → m.read k = some
        (((List.range (k + 1)).filter (fun i => decide (i < s.plen.toNat ∧ k - i < s.qlen.toNat))).foldl
          (fun c i => gfAdd c (s.gfMul (s.cell .p i) (s.cell .q (k - i)))) 0#8)) ∧
      (∀ k, n.toNat ≤ k → m.read k = s.rbuf.read k)) ∧
  (∀ (s : State) (i : Nat) (v : Byte),
    (s.pbuf.read i = some v → s.cell .p i = v) ∧ (s.qbuf.read i = some v → s.cell .q i = v))

/-- 42_polynomial.md R101, 60_exceptions.md R117: PMUL's length errors, the first that applies; no entry is written. -/
def Obligations.PmulLengthErrors : Prop :=
  ∀ s : State,
    ((s.plen.toNat = 0 ∨ 256 < s.plen.toNat ∨ s.qlen.toNat = 0 ∨ 256 < s.qlen.toNat) →
      exec .pmul s = .next { s with err := true, ecode := 6#4 }) ∧
    (1 ≤ s.plen.toNat → s.plen.toNat ≤ 256 → 1 ≤ s.qlen.toNat → s.qlen.toNat ≤ 256 →
      256 < s.plen.toNat + s.qlen.toNat - 1 → exec .pmul s = .next { s with err := true, ecode := 7#4 })

/-- 42_polynomial.md R102: PMONO loads (x + root) into Q. -/
def Obligations.PmonoLoadsTheRootFactor : Prop :=
  (∀ v : Word, v &&& 0xFF00FFFF#32 = 0x09000000#32 → decode v = .ok (.pmono (v.extractLsb' 16 8))) ∧
  (∀ (a : Byte) (s : State), ∃ m, exec (.pmono a) s = .next { s with qbuf := m, qlen := 2#9 } ∧
    m.read 0 = some a ∧ m.read 1 = some 0x01#8 ∧ ∀ k, 2 ≤ k → m.read k = s.qbuf.read k)

/-- 42_polynomial.md R103: PEVAL is Horner's method on P, or BAD_LEN. An entry that holds no value enters as a free
value, the model's choice (log entries 4 and 5). -/
def Obligations.PevalIsHorner : Prop :=
  (∀ v : Word, v &&& 0xFF00FFFF#32 = 0x0A000000#32 → decode v = .ok (.peval (v.extractLsb' 16 8))) ∧
  (∀ (a : Byte) (s : State), (s.plen.toNat = 0 ∨ 256 < s.plen.toNat) →
    exec (.peval a) s = .next { s with err := true, ecode := 6#4 }) ∧
  (∀ (a : Byte) (s : State), 1 ≤ s.plen.toNat → s.plen.toNat ≤ 256 →
    exec (.peval a) s = .next { s with
      result := (List.range s.plen.toNat).reverse.foldl (fun acc k => gfAdd (s.gfMul acc a) (s.cell .p k)) 0#8 }) ∧
  (∀ (s : State) (i : Nat) (v : Byte), s.pbuf.read i = some v → s.cell .p i = v)

/-- 42_polynomial.md R103, corner cases: the value is the sum of p_k times a to the k; at 0 it is p_0, at 1 the sum of
the coefficients. An entry that holds no value enters as a free value, the model's choice (log entries 4 and 5). -/
def Obligations.PevalIsThePowerSum : Prop :=
  ∀ (a : Byte) (s : State), s.Inv → s.tstate = .ready → 1 ≤ s.plen.toNat → s.plen.toNat ≤ 256 →
    exec (.peval a) s = .next { s with
      result := (List.range s.plen.toNat).foldl
        (fun acc k => gfAdd acc (s.gfMul (s.cell .p k) (s.gfPow a k))) 0#8 } ∧
    exec (.peval 0#8) s = .next { s with result := s.cell .p 0 } ∧
    exec (.peval 1#8) s = .next { s with
      result := (List.range s.plen.toNat).foldl (fun acc k => gfAdd acc (s.cell .p k)) 0#8 }

/-- 42_polynomial.md R104: PMOVE copies the product into P, or BAD_LEN; twice is the same as once. An entry that holds
no value is copied as a free value, the model's choice (log entries 4 and 5). -/
def Obligations.PmoveCopiesTheProduct : Prop :=
  (∀ v : Word, v &&& 0xFFFFFFFF#32 = 0x0B000000#32 → decode v = .ok .pmove) ∧
  (∀ s : State, (s.rlen.toNat = 0 ∨ 256 < s.rlen.toNat) →
    exec .pmove s = .next { s with err := true, ecode := 6#4 }) ∧
  (∀ s : State, 1 ≤ s.rlen.toNat → s.rlen.toNat ≤ 256 →
    ∃ m, exec .pmove s = .next { s with pbuf := m, plen := s.rlen } ∧
      (∀ k, k < s.rlen.toNat → m.read k = some (s.cell .r k)) ∧
      (∀ k, s.rlen.toNat ≤ k → m.read k = s.pbuf.read k)) ∧
  (∀ (s : State) (i : Nat) (v : Byte), s.rbuf.read i = some v → s.cell .r i = v) ∧
  (∀ s : State, s.Inv → s.rlen.toNat ≤ 256 ∧ (s.rlen.toNat ≠ 0 →
    ∃ t, exec .pmove s = .next t ∧ exec .pmove t = .next t))

/-- 42_polynomial.md R105, neutral element and nonzero top: the product with [1] is P, and the top coefficient of a
product is the product of the tops, nonzero if they are. An entry that holds no
value enters as a free value, the model's choice (log entries 4 and 5). -/
def Obligations.ProductNeutralAndTop : Prop :=
  ∀ s t : State, s.Inv → s.tstate = .ready → exec .pmul s = .next t →
    1 ≤ s.plen.toNat → s.plen.toNat ≤ 256 → 1 ≤ s.qlen.toNat → s.plen.toNat + s.qlen.toNat - 1 ≤ 256 →
    t.rlen.toNat = s.plen.toNat + s.qlen.toNat - 1 ∧
    (s.qlen = 1#9 → s.qbuf.read 0 = some 1#8 →
      ∀ k, k < s.plen.toNat → t.rbuf.read k = some (s.cell .p k)) ∧
    t.rbuf.read (t.rlen.toNat - 1) =
      some (s.gfMul (s.cell .p (s.plen.toNat - 1)) (s.cell .q (s.qlen.toNat - 1))) ∧
    (s.cell .p (s.plen.toNat - 1) ≠ 0#8 → s.cell .q (s.qlen.toNat - 1) ≠ 0#8 →
      s.gfMul (s.cell .p (s.plen.toNat - 1)) (s.cell .q (s.qlen.toNat - 1)) ≠ 0#8)

/-- 42_polynomial.md R105, algebra: exchanging the contents of P and Q gives the same product. -/
def Obligations.ProductIsCommutative : Prop :=
  ∀ s t : State, s.Inv → s.tstate = .ready →
    (∀ i, i < s.plen.toNat → ((s.pbuf.read i).isSome = true)) →
    (∀ i, i < s.qlen.toNat → ((s.qbuf.read i).isSome = true)) →
    exec .pmul s = .next t →
    ∃ u, exec .pmul { s with pbuf := s.qbuf, plen := s.qlen, qbuf := s.pbuf, qlen := s.plen } = .next u ∧
      u.rbuf = t.rbuf ∧ u.rlen = t.rlen ∧ u.err = t.err ∧ u.ecode = t.ecode

/-- Evaluation is multiplicative: the value of a product at x is the product of the two values at x. So a root of either
factor is a root of the product (42_polynomial.md R103, R107). For an entry that holds no value it rests on the model's
choice that every reading gives one free value (log entries 4 and 5). -/
def Obligations.EvaluationOfAProduct : Prop :=
  ∀ (s : State) (x : Byte), s.Inv → s.tstate = .ready → 1 ≤ s.plen.toNat → s.plen.toNat ≤ 256 →
    1 ≤ s.qlen.toNat → s.plen.toNat + s.qlen.toNat - 1 ≤ 256 →
    ∃ t u v, exec .pmul s = .next t ∧ exec .pmove t = .next u ∧ exec (.peval x) u = .next v ∧
      v.result = s.gfMul (s.horner x (s.coeffs .p s.plen.toNat)) (s.horner x (s.coeffs .q s.qlen.toNat))

/-! Rules about the whole machine. -/

/-- 30_encoding.md R65, 60_exceptions.md R116: a failing command changes only ERR and ECODE; a successful one changes
neither. -/
def Obligations.FailingCommandWritesOnlyTheRecord : Prop :=
  ∀ (i : Instr) (s t : State), exec i s = .next t →
    (t.err = s.err ∧ t.ecode = s.ecode) ∨
      (∃ c : BitVec 4, 4 ≤ c.toNat ∧ c.toNat ≤ 7 ∧ t = { s with err := true, ecode := c })

/-- No command stops the model, in any state. 60_exceptions.md R113 says so of errors; that a command also completes on
tables that are not built (U4, U5) or on an empty buffer entry (U3) is the model's choice (log entries 4 and 6). -/
def Obligations.EveryCommandCompletes : Prop :=
  ∀ (i : Instr) (s : State), ∃ t, exec i s = .next t

/-- The frame of every command: which fields it leaves as they are, and which command may write which field
(10_state.md R26, R27, R29). -/
def Obligations.CommandFrames : Prop :=
  ∀ (i : Instr) (s t : State), exec i s = .next t →
    t.tstate = s.tstate ∧ t.expTab = s.expTab ∧ t.logTab = s.logTab ∧ t.busy = s.busy ∧ t.pend = s.pend ∧
    t.inReset = s.inReset ∧ t.host = s.host ∧ t.sched = s.sched ∧ t.reads = s.reads ∧ t.stepNo = s.stepNo ∧
    ((i = .pmul ∨ i = .pmove ∨ ∃ a, i = .pmono a) → t.result = s.result) ∧
    (i ≠ .pmul → (∀ k, t.rbuf.read k = s.rbuf.read k) ∧ t.rlen = s.rlen) ∧
    (i ≠ .pmove → (∀ k, t.pbuf.read k = s.pbuf.read k) ∧ t.plen = s.plen) ∧
    ((∀ a, i ≠ .pmono a) → (∀ k, t.qbuf.read k = s.qbuf.read k) ∧ t.qlen = s.qlen)

/-- 10_state.md R16, R24: only BUILD changes TSTATE, from INIT; once READY, nothing but reset changes TSTATE or a
table. -/
def Obligations.TablesChangeOnlyByBuildOrReset : Prop :=
  ∀ s t : State, step s = .next t → ¬(s.inReset = true ∧ s.nextTurn = .deassertReset) →
    (s.tstate ≠ .init → t.tstate = s.tstate ∧ t.expTab = s.expTab ∧ t.logTab = s.logTab) ∧
    (t.tstate ≠ s.tstate → s.tstate = .init ∧ s.nextTurn = .core ∧ s.inReset = false ∧ t.tstate = .ready)

/-- 10_state.md R26, R27, R29: outside a reset, a step that changes RESULT, RBUF or RLEN is the completion of a command
that writes it. -/
def Obligations.ResultsChangeOnlyByCompletion : Prop :=
  ∀ s t : State, step s = .next t → ¬(s.inReset = true ∧ s.nextTurn = .deassertReset) →
    (t.result ≠ s.result → s.nextTurn = .core ∧ s.busy = true ∧
      ∃ v i, s.pend = some v ∧ decode v = .ok i ∧ i ≠ .pmul ∧ i ≠ .pmove ∧ ∀ a, i ≠ .pmono a) ∧
    (t.rbuf ≠ s.rbuf ∨ t.rlen ≠ s.rlen → s.nextTurn = .core ∧ s.busy = true ∧ s.pend = some 0x08000000#32)

/-- 60_exceptions.md R118, R120: ERR stays 1 until the host clears it: outside a reset, a step that clears ERR is a host
write of STATUS with bit 3 set. -/
def Obligations.ErrorIsSticky : Prop :=
  ∀ s t : State, step s = .next t → s.err = true → t.err = false →
    (s.inReset = true ∧ s.nextTurn = .deassertReset) ∨
    (s.nextTurn = .host ∧ t.ecode = 0#4 ∧ ∃ v rest, v.getLsbD 3 = true ∧ s.host = .write 0x008 .word v :: rest)

/-- 20_memory.md R52: after an admitted CMD write is accepted, the first STATUS read that shows BUSY = 0 comes after the
completion: BUSY falls only in the step that completes the pending command, or in a reset. -/
def Obligations.BusyFallsOnlyAtCompletion : Prop :=
  ∀ s t : State, step s = .next t → s.busy = true → t.busy = false →
    (s.inReset = true ∧ s.nextTurn = .deassertReset) ∨
    (s.nextTurn = .core ∧ s.inReset = false ∧ ((s.tstate ≠ .init ∧ ∃ v i u, s.pend = some v ∧ decode v = .ok i ∧
      exec i s = .next u ∧ t = u.retire.endTurn)))
end

