-- ==== Sys2Proof/Laws/Decode.lean ====
section
/-! SUPPORT. The laws of the decoder's match and mask table. -/

namespace Sys2Proof

theorem Op.matches_iff (o : Op) (v : Word) : o.matches v = true ↔ v &&& o.mask = o.pattern := by
  simp [Op.matches]

/-- Every row fixes the top byte of the word: RSV and OP (30_encoding.md R62). -/
theorem Op.top_of_matches {o : Op} {v : Word} (h : o.matches v = true) : v &&& 0xFF000000#32 = o.pattern := by
  rw [Op.matches_iff] at h
  have h1 : v &&& o.mask &&& 0xFF000000#32 = o.pattern &&& 0xFF000000#32 := by rw [h]
  have h2 : o.mask &&& 0xFF000000#32 = 0xFF000000#32 := by cases o <;> rfl
  have h3 : o.pattern &&& 0xFF000000#32 = o.pattern := by cases o <;> rfl
  rwa [BitVec.and_assoc, h2, h3] at h1

/-- A row's pattern names the row. -/
theorem Op.pattern_injective {o o' : Op} (h : o.pattern = o'.pattern) : o = o' := by
  cases o <;> cases o' <;> first | rfl | exact absurd h (by decide)

/-- A word that matches a row decodes to that row's command (R66). -/
theorem decode_of_matches {o : Op} {v : Word} (h : o.matches v = true) : decode v = .ok (o.instr v) := by
  have key : ∀ l : List Op, o ∈ l → l.find? (fun o => o.matches v) = some o := by
    intro l
    induction l with
    | nil => simp
    | cons x l ih =>
      intro hx
      rw [List.find?_cons]
      by_cases e : x.matches v = true
      · have := Op.pattern_injective ((Op.top_of_matches e).symm.trans (Op.top_of_matches h))
        subst this
        simp [e]
      · rcases List.mem_cons.1 hx with rfl | hx
        · exact absurd h e
        · simp [e, ih hx]
  unfold decode
  rw [key Op.all (by cases o <;> decide)]

/-- What the decoder accepts, some row matches (R66). -/
theorem matches_of_decode {v : Word} {i : Instr} (h : decode v = .ok i) :
    ∃ o : Op, o.matches v = true ∧ i = o.instr v := by
  unfold decode at h
  split at h
  · rename_i o ho
    injection h with h
    exact ⟨o, List.find?_some (p := fun o : Op => o.matches v) ho, h.symm⟩
  · cases h

end Sys2Proof
end

