-- ==== Sys2Proof/Laws/Memory.lean ====
section
/-! SUPPORT. The laws of a memory in canonical form: a write is read back, leaves every other cell alone and keeps the
form, and a memory in that form is determined by what its cells read as. -/

namespace Sys2Proof.Machine

theorem nat_beq_eq (k a : Nat) : Nat.beq k a = decide (k = a) := by
  rw [Bool.eq_iff_iff]; simp

theorem nat_blt_eq (k a : Nat) : Nat.blt k a = decide (k < a) := by
  rw [Bool.eq_iff_iff]; simp [Nat.blt_eq]

@[simp] theorem Memory.read_nil (a : Nat) : Memory.read [] a = none := rfl

theorem Memory.read_cons (k a : Nat) (v : Byte) (m : Memory) :
    Memory.read ((k, v) :: m) a = if k = a then some v else Memory.read m a := by
  rw [Memory.read, nat_beq_eq]
  by_cases h : k = a <;> simp [h]

theorem Memory.write_cons (k a : Nat) (w v : Byte) (m : Memory) :
    Memory.write ((k, w) :: m) a v =
      if k < a then (k, w) :: Memory.write m a v
      else if k = a then (a, v) :: m else (a, v) :: (k, w) :: m := by
  rw [Memory.write, nat_blt_eq, nat_beq_eq]
  by_cases h : k < a
  · simp [h]
  · by_cases e : k = a <;> simp [h, e]

/-- What any cell reads as after a write. -/
theorem Memory.read_write (m : Memory) (a b : Nat) (v : Byte) :
    (m.write a v).read b = if a = b then some v else m.read b := by
  induction m with
  | nil => simp [Memory.write, Memory.read_cons]
  | cons c m ih =>
    obtain ⟨k, w⟩ := c
    rw [Memory.write_cons]
    split
    · rw [Memory.read_cons, ih, Memory.read_cons]
      split <;> split <;> first | rfl | omega
    · split
      · subst_vars
        rw [Memory.read_cons, Memory.read_cons]
        split <;> rfl
      · rw [Memory.read_cons]

theorem Memory.read_write_same (m : Memory) (a : Nat) (v : Byte) : (m.write a v).read a = some v := by
  simp [Memory.read_write]

theorem Memory.read_write_other (m : Memory) {a b : Nat} (v : Byte) (h : a ≠ b) :
    (m.write a v).read b = m.read b := by
  simp [Memory.read_write, h]

theorem Memory.wfFrom_cons (lo k : Nat) (v : Byte) (m : Memory) :
    Memory.wfFrom lo ((k, v) :: m) = true ↔ lo ≤ k ∧ Memory.wfFrom (k + 1) m = true := by
  simp [Memory.wfFrom]

theorem Memory.wfFrom_mono {lo lo' : Nat} (m : Memory) (h : lo' ≤ lo) (hm : m.wfFrom lo = true) :
    m.wfFrom lo' = true := by
  cases m with
  | nil => rfl
  | cons c m =>
    obtain ⟨k, v⟩ := c
    rw [Memory.wfFrom_cons] at hm ⊢
    exact ⟨by omega, hm.2⟩

theorem Memory.wfFrom_write (m : Memory) {lo a : Nat} (v : Byte) (h : lo ≤ a) (hm : m.wfFrom lo = true) :
    (m.write a v).wfFrom lo = true := by
  induction m generalizing lo with
  | nil => simp [Memory.write, Memory.wfFrom, h]
  | cons c m ih =>
    obtain ⟨k, w⟩ := c
    rw [Memory.wfFrom_cons] at hm
    rw [Memory.write_cons]
    split
    · rw [Memory.wfFrom_cons]
      exact ⟨hm.1, ih (by omega) hm.2⟩
    · split
      · subst_vars
        rw [Memory.wfFrom_cons]
        exact ⟨h, hm.2⟩
      · rw [Memory.wfFrom_cons, Memory.wfFrom_cons]
        exact ⟨h, by omega, hm.2⟩

/-- A write keeps the canonical form. -/
theorem Memory.wf_write (m : Memory) (a : Nat) (v : Byte) (hm : m.wf = true) : (m.write a v).wf = true :=
  Memory.wfFrom_write m v (Nat.zero_le a) hm

theorem Memory.below_nil (n : Nat) : Memory.below n [] = true := rfl

theorem Memory.below_cons (n k : Nat) (v : Byte) (m : Memory) :
    Memory.below n ((k, v) :: m) = true ↔ k < n ∧ Memory.below n m = true := by
  simp [Memory.below, Nat.blt_eq]

theorem Memory.below_append (n : Nat) (m m' : Memory) :
    Memory.below n (m ++ m') = true ↔ Memory.below n m = true ∧ Memory.below n m' = true := by
  simp [Memory.below]

/-- A write inside a bound keeps the bound. -/
theorem Memory.below_write (m : Memory) {n a : Nat} (v : Byte) (ha : a < n) (hm : m.below n = true) :
    (m.write a v).below n = true := by
  induction m with
  | nil => simp [Memory.write, Memory.below_cons, Memory.below_nil, ha]
  | cons c m ih =>
    obtain ⟨k, w⟩ := c
    rw [Memory.below_cons] at hm
    rw [Memory.write_cons]
    split
    · rw [Memory.below_cons]
      exact ⟨hm.1, ih hm.2⟩
    · split <;> simp [Memory.below_cons, ha, hm]

/-- What any cell of a block reads as. -/
theorem Memory.read_block (vs : List Byte) (a b : Nat) :
    (Memory.block a vs).read b = if a ≤ b then vs[b - a]? else none := by
  induction vs generalizing a with
  | nil => simp [Memory.block]
  | cons v vs ih =>
    rw [Memory.block, Memory.read_cons, ih]
    by_cases h : a = b
    · subst h; simp
    · by_cases h' : a + 1 ≤ b
      · have e : b - a = (b - (a + 1)) + 1 := by omega
        rw [if_neg h, if_pos h', if_pos (by omega), e, List.getElem?_cons_succ]
      · rw [if_neg h, if_neg h', if_neg (by omega)]

theorem Memory.read_append (m m' : Memory) (a : Nat) :
    Memory.read (m ++ m') a = (Memory.read m a).or (Memory.read m' a) := by
  induction m with
  | nil => simp
  | cons c m ih =>
    obtain ⟨k, v⟩ := c
    rw [List.cons_append, Memory.read_cons, Memory.read_cons, ih]
    split <;> simp

theorem Memory.read_filter (m : Memory) (f : Host.Cell → Bool) (g : Nat → Bool) (h : ∀ c, f c = g c.1) (a : Nat) :
    Memory.read (m.filter f) a = if g a then m.read a else none := by
  induction m with
  | nil => simp
  | cons c m ih =>
    obtain ⟨k, v⟩ := c
    rw [List.filter_cons, h, Memory.read_cons]
    by_cases e : k = a
    · subst e
      by_cases hk : g k = true <;> simp [hk, Memory.read_cons, ih]
    · by_cases hk : g k = true <;> simp [hk, Memory.read_cons, ih, e]

/-- What any cell reads as after a block of cells is written. -/
theorem Memory.read_writeFrom (m : Memory) (a b : Nat) (vs : List Byte) :
    (m.writeFrom a vs).read b =
      if a ≤ b ∧ b < a + vs.length then vs[b - a]? else m.read b := by
  unfold Memory.writeFrom
  rw [Memory.read_append, Memory.read_append, Memory.read_block,
    Memory.read_filter m _ (fun k => Nat.blt k a) (fun _ => rfl),
    Memory.read_filter m _ (fun k => Nat.ble (a + vs.length) k) (fun _ => rfl)]
  by_cases h1 : b < a
  · have e1 : Nat.blt b a = true := by simpa [Nat.blt_eq] using h1
    have e2 : Nat.ble (a + vs.length) b = false := by rw [Bool.eq_false_iff]; simp; omega
    rw [if_pos e1, if_neg (by omega), if_neg (by simp [e2]), if_neg (by omega)]; simp
  · have e1 : Nat.blt b a = false := by rw [Bool.eq_false_iff]; simpa [Nat.blt_eq] using h1
    by_cases h2 : b < a + vs.length
    · have e2 : Nat.ble (a + vs.length) b = false := by rw [Bool.eq_false_iff]; simp; omega
      rw [if_neg (by simp [e1]), if_pos (by omega), if_neg (by simp [e2]), if_pos (by omega)]; simp
    · have e2 : Nat.ble (a + vs.length) b = true := by simp; omega
      rw [if_neg (by simp [e1]), if_pos (by omega), if_pos e2, if_neg (by omega),
        List.getElem?_eq_none (by omega)]; simp

theorem Memory.below_block (vs : List Byte) (a n : Nat) (h : a + vs.length ≤ n) :
    (Memory.block a vs).below n = true := by
  induction vs generalizing a with
  | nil => rfl
  | cons v vs ih =>
    simp only [List.length_cons] at h
    rw [Memory.block, Memory.below_cons]
    exact ⟨by omega, ih (a + 1) (by omega)⟩

theorem Memory.below_filter (m : Memory) (n : Nat) (f : Host.Cell → Bool) (hm : m.below n = true) :
    Memory.below n (m.filter f) = true := by
  simp only [Memory.below, List.all_eq_true, List.mem_filter] at hm ⊢
  exact fun c hc => hm c hc.1

/-- Writing a block inside a bound keeps the bound. -/
theorem Memory.below_writeFrom (m : Memory) (a n : Nat) (vs : List Byte) (h : a + vs.length ≤ n)
    (hm : m.below n = true) : (m.writeFrom a vs).below n = true := by
  unfold Memory.writeFrom
  rw [Memory.below_append, Memory.below_append]
  exact ⟨⟨Memory.below_filter m n _ hm, Memory.below_block vs a n h⟩, Memory.below_filter m n _ hm⟩

theorem Memory.wfFrom_append (m m' : Memory) {lo mid : Nat} (hm : m.wfFrom lo = true) (hlo : lo ≤ mid)
    (hb : m.below mid = true) (hm' : m'.wfFrom mid = true) : Memory.wfFrom lo (m ++ m') = true := by
  induction m generalizing lo with
  | nil => exact Memory.wfFrom_mono m' hlo hm'
  | cons c m ih =>
    obtain ⟨k, v⟩ := c
    rw [Memory.wfFrom_cons] at hm
    rw [Memory.below_cons] at hb
    rw [List.cons_append, Memory.wfFrom_cons]
    exact ⟨hm.1, ih hm.2 (by omega) hb.2⟩

theorem Memory.wfFrom_block (vs : List Byte) (a : Nat) : (Memory.block a vs).wfFrom a = true := by
  induction vs generalizing a with
  | nil => rfl
  | cons v vs ih =>
    rw [Memory.block, Memory.wfFrom_cons]
    exact ⟨Nat.le_refl a, ih (a + 1)⟩

theorem Memory.wfFrom_filter (m : Memory) (f : Host.Cell → Bool) {lo : Nat} (hm : m.wfFrom lo = true) :
    Memory.wfFrom lo (m.filter f) = true := by
  induction m generalizing lo with
  | nil => rfl
  | cons c m ih =>
    obtain ⟨k, v⟩ := c
    rw [Memory.wfFrom_cons] at hm
    rw [List.filter_cons]
    split
    · rw [Memory.wfFrom_cons]
      exact ⟨hm.1, ih hm.2⟩
    · exact Memory.wfFrom_mono _ (by omega) (ih hm.2)

theorem Memory.wfFrom_filter_ge (m : Memory) (n : Nat) {lo : Nat} (hm : m.wfFrom lo = true) :
    Memory.wfFrom n (m.filter (fun c => Nat.ble n c.1)) = true := by
  induction m generalizing lo with
  | nil => rfl
  | cons c m ih =>
    obtain ⟨k, v⟩ := c
    rw [Memory.wfFrom_cons] at hm
    rw [List.filter_cons]
    split
    · rename_i h
      rw [Memory.wfFrom_cons]
      exact ⟨by simpa using h, Memory.wfFrom_filter m _ hm.2⟩
    · exact ih hm.2

/-- Writing a block keeps the canonical form. -/
theorem Memory.wf_writeFrom (m : Memory) (a : Nat) (vs : List Byte) (hm : m.wf = true) :
    (m.writeFrom a vs).wf = true := by
  unfold Memory.wf Memory.writeFrom
  refine Memory.wfFrom_append _ _ (mid := a + vs.length) ?_ (Nat.zero_le _) ?_
    (Memory.wfFrom_filter_ge m _ hm)
  · refine Memory.wfFrom_append _ _ (mid := a) (Memory.wfFrom_filter m _ hm) (Nat.zero_le _) ?_
      (Memory.wfFrom_block vs a)
    simp [Memory.below, List.all_eq_true]
  · rw [Memory.below_append]
    refine ⟨?_, Memory.below_block vs a _ (Nat.le_refl _)⟩
    simp only [Memory.below, List.all_eq_true, List.mem_filter, Nat.blt_eq]
    rintro c ⟨-, h⟩
    omega

theorem Memory.read_lt_of_wfFrom (m : Memory) {lo a : Nat} (hm : m.wfFrom lo = true) (h : a < lo) :
    m.read a = none := by
  induction m generalizing lo with
  | nil => rfl
  | cons c m ih =>
    obtain ⟨k, v⟩ := c
    rw [Memory.wfFrom_cons] at hm
    rw [Memory.read_cons, if_neg (by omega)]
    exact ih hm.2 (by omega)

theorem Memory.ext_from (m m' : Memory) {lo : Nat} (hm : m.wfFrom lo = true) (hm' : m'.wfFrom lo = true)
    (h : ∀ a, m.read a = m'.read a) : m = m' := by
  induction m generalizing m' lo with
  | nil =>
    cases m' with
    | nil => rfl
    | cons c m' =>
      obtain ⟨k, v⟩ := c
      have := h k
      simp [Memory.read_cons] at this
  | cons c m ih =>
    obtain ⟨k, v⟩ := c
    cases m' with
    | nil =>
      have := h k
      simp [Memory.read_cons] at this
    | cons c' m' =>
      obtain ⟨k', v'⟩ := c'
      rw [Memory.wfFrom_cons] at hm hm'
      have hk : k = k' := by
        have h1 := h k
        have h2 := h k'
        rw [Memory.read_cons, if_pos rfl, Memory.read_cons] at h1
        rw [Memory.read_cons, Memory.read_cons, if_pos rfl] at h2
        by_contra hne
        rw [if_neg (Ne.symm hne)] at h1
        rw [if_neg hne] at h2
        rcases Nat.lt_or_gt_of_ne hne with hlt | hgt
        · rw [Memory.read_lt_of_wfFrom m' hm'.2 (by omega)] at h1
          cases h1
        · rw [Memory.read_lt_of_wfFrom m hm.2 (by omega)] at h2
          cases h2
      subst hk
      have hv := h k
      rw [Memory.read_cons, if_pos rfl, Memory.read_cons, if_pos rfl] at hv
      cases hv
      congr 1
      refine ih m' hm.2 hm'.2 (fun a => ?_)
      by_cases e : k = a
      · subst e
        rw [Memory.read_lt_of_wfFrom m hm.2 (by omega), Memory.read_lt_of_wfFrom m' hm'.2 (by omega)]
      · have := h a
        rwa [Memory.read_cons, if_neg e, Memory.read_cons, if_neg e] at this

/-- Two memories in canonical form whose cells read alike are the same data. -/
theorem Memory.ext (m m' : Memory) (hm : m.wf = true) (hm' : m'.wf = true) (h : ∀ a, m.read a = m'.read a) :
    m = m' := Memory.ext_from m m' hm hm' h

end Sys2Proof.Machine
end

