-- ==== Sys2Proof/Laws/State.lean ====
section
/-! SUPPORT. One lemma per field per update of State, each true by rfl, so that no proof unfolds a record update. -/

namespace Sys2Proof.Machine

@[simp] theorem State.setResult_tstate (s : State) (v : Byte) : (s.setResult v).tstate = s.tstate := rfl
@[simp] theorem State.setResult_expTab (s : State) (v : Byte) : (s.setResult v).expTab = s.expTab := rfl
@[simp] theorem State.setResult_logTab (s : State) (v : Byte) : (s.setResult v).logTab = s.logTab := rfl
@[simp] theorem State.setResult_busy (s : State) (v : Byte) : (s.setResult v).busy = s.busy := rfl
@[simp] theorem State.setResult_pend (s : State) (v : Byte) : (s.setResult v).pend = s.pend := rfl
@[simp] theorem State.setResult_err (s : State) (v : Byte) : (s.setResult v).err = s.err := rfl
@[simp] theorem State.setResult_ecode (s : State) (v : Byte) : (s.setResult v).ecode = s.ecode := rfl
@[simp] theorem State.setResult_result (s : State) (v : Byte) : (s.setResult v).result = v := rfl
@[simp] theorem State.setResult_pbuf (s : State) (v : Byte) : (s.setResult v).pbuf = s.pbuf := rfl
@[simp] theorem State.setResult_qbuf (s : State) (v : Byte) : (s.setResult v).qbuf = s.qbuf := rfl
@[simp] theorem State.setResult_rbuf (s : State) (v : Byte) : (s.setResult v).rbuf = s.rbuf := rfl
@[simp] theorem State.setResult_plen (s : State) (v : Byte) : (s.setResult v).plen = s.plen := rfl
@[simp] theorem State.setResult_qlen (s : State) (v : Byte) : (s.setResult v).qlen = s.qlen := rfl
@[simp] theorem State.setResult_rlen (s : State) (v : Byte) : (s.setResult v).rlen = s.rlen := rfl
@[simp] theorem State.setResult_inReset (s : State) (v : Byte) : (s.setResult v).inReset = s.inReset := rfl
@[simp] theorem State.setResult_host (s : State) (v : Byte) : (s.setResult v).host = s.host := rfl
@[simp] theorem State.setResult_sched (s : State) (v : Byte) : (s.setResult v).sched = s.sched := rfl
@[simp] theorem State.setResult_reads (s : State) (v : Byte) : (s.setResult v).reads = s.reads := rfl
@[simp] theorem State.setResult_stepNo (s : State) (v : Byte) : (s.setResult v).stepNo = s.stepNo := rfl

@[simp] theorem State.setPlen_tstate (s : State) (n : Len) : (s.setPlen n).tstate = s.tstate := rfl
@[simp] theorem State.setPlen_expTab (s : State) (n : Len) : (s.setPlen n).expTab = s.expTab := rfl
@[simp] theorem State.setPlen_logTab (s : State) (n : Len) : (s.setPlen n).logTab = s.logTab := rfl
@[simp] theorem State.setPlen_busy (s : State) (n : Len) : (s.setPlen n).busy = s.busy := rfl
@[simp] theorem State.setPlen_pend (s : State) (n : Len) : (s.setPlen n).pend = s.pend := rfl
@[simp] theorem State.setPlen_err (s : State) (n : Len) : (s.setPlen n).err = s.err := rfl
@[simp] theorem State.setPlen_ecode (s : State) (n : Len) : (s.setPlen n).ecode = s.ecode := rfl
@[simp] theorem State.setPlen_result (s : State) (n : Len) : (s.setPlen n).result = s.result := rfl
@[simp] theorem State.setPlen_pbuf (s : State) (n : Len) : (s.setPlen n).pbuf = s.pbuf := rfl
@[simp] theorem State.setPlen_qbuf (s : State) (n : Len) : (s.setPlen n).qbuf = s.qbuf := rfl
@[simp] theorem State.setPlen_rbuf (s : State) (n : Len) : (s.setPlen n).rbuf = s.rbuf := rfl
@[simp] theorem State.setPlen_plen (s : State) (n : Len) : (s.setPlen n).plen = n := rfl
@[simp] theorem State.setPlen_qlen (s : State) (n : Len) : (s.setPlen n).qlen = s.qlen := rfl
@[simp] theorem State.setPlen_rlen (s : State) (n : Len) : (s.setPlen n).rlen = s.rlen := rfl
@[simp] theorem State.setPlen_inReset (s : State) (n : Len) : (s.setPlen n).inReset = s.inReset := rfl
@[simp] theorem State.setPlen_host (s : State) (n : Len) : (s.setPlen n).host = s.host := rfl
@[simp] theorem State.setPlen_sched (s : State) (n : Len) : (s.setPlen n).sched = s.sched := rfl
@[simp] theorem State.setPlen_reads (s : State) (n : Len) : (s.setPlen n).reads = s.reads := rfl
@[simp] theorem State.setPlen_stepNo (s : State) (n : Len) : (s.setPlen n).stepNo = s.stepNo := rfl

@[simp] theorem State.setQlen_tstate (s : State) (n : Len) : (s.setQlen n).tstate = s.tstate := rfl
@[simp] theorem State.setQlen_expTab (s : State) (n : Len) : (s.setQlen n).expTab = s.expTab := rfl
@[simp] theorem State.setQlen_logTab (s : State) (n : Len) : (s.setQlen n).logTab = s.logTab := rfl
@[simp] theorem State.setQlen_busy (s : State) (n : Len) : (s.setQlen n).busy = s.busy := rfl
@[simp] theorem State.setQlen_pend (s : State) (n : Len) : (s.setQlen n).pend = s.pend := rfl
@[simp] theorem State.setQlen_err (s : State) (n : Len) : (s.setQlen n).err = s.err := rfl
@[simp] theorem State.setQlen_ecode (s : State) (n : Len) : (s.setQlen n).ecode = s.ecode := rfl
@[simp] theorem State.setQlen_result (s : State) (n : Len) : (s.setQlen n).result = s.result := rfl
@[simp] theorem State.setQlen_pbuf (s : State) (n : Len) : (s.setQlen n).pbuf = s.pbuf := rfl
@[simp] theorem State.setQlen_qbuf (s : State) (n : Len) : (s.setQlen n).qbuf = s.qbuf := rfl
@[simp] theorem State.setQlen_rbuf (s : State) (n : Len) : (s.setQlen n).rbuf = s.rbuf := rfl
@[simp] theorem State.setQlen_plen (s : State) (n : Len) : (s.setQlen n).plen = s.plen := rfl
@[simp] theorem State.setQlen_qlen (s : State) (n : Len) : (s.setQlen n).qlen = n := rfl
@[simp] theorem State.setQlen_rlen (s : State) (n : Len) : (s.setQlen n).rlen = s.rlen := rfl
@[simp] theorem State.setQlen_inReset (s : State) (n : Len) : (s.setQlen n).inReset = s.inReset := rfl
@[simp] theorem State.setQlen_host (s : State) (n : Len) : (s.setQlen n).host = s.host := rfl
@[simp] theorem State.setQlen_sched (s : State) (n : Len) : (s.setQlen n).sched = s.sched := rfl
@[simp] theorem State.setQlen_reads (s : State) (n : Len) : (s.setQlen n).reads = s.reads := rfl
@[simp] theorem State.setQlen_stepNo (s : State) (n : Len) : (s.setQlen n).stepNo = s.stepNo := rfl

@[simp] theorem State.setRlen_tstate (s : State) (n : Len) : (s.setRlen n).tstate = s.tstate := rfl
@[simp] theorem State.setRlen_expTab (s : State) (n : Len) : (s.setRlen n).expTab = s.expTab := rfl
@[simp] theorem State.setRlen_logTab (s : State) (n : Len) : (s.setRlen n).logTab = s.logTab := rfl
@[simp] theorem State.setRlen_busy (s : State) (n : Len) : (s.setRlen n).busy = s.busy := rfl
@[simp] theorem State.setRlen_pend (s : State) (n : Len) : (s.setRlen n).pend = s.pend := rfl
@[simp] theorem State.setRlen_err (s : State) (n : Len) : (s.setRlen n).err = s.err := rfl
@[simp] theorem State.setRlen_ecode (s : State) (n : Len) : (s.setRlen n).ecode = s.ecode := rfl
@[simp] theorem State.setRlen_result (s : State) (n : Len) : (s.setRlen n).result = s.result := rfl
@[simp] theorem State.setRlen_pbuf (s : State) (n : Len) : (s.setRlen n).pbuf = s.pbuf := rfl
@[simp] theorem State.setRlen_qbuf (s : State) (n : Len) : (s.setRlen n).qbuf = s.qbuf := rfl
@[simp] theorem State.setRlen_rbuf (s : State) (n : Len) : (s.setRlen n).rbuf = s.rbuf := rfl
@[simp] theorem State.setRlen_plen (s : State) (n : Len) : (s.setRlen n).plen = s.plen := rfl
@[simp] theorem State.setRlen_qlen (s : State) (n : Len) : (s.setRlen n).qlen = s.qlen := rfl
@[simp] theorem State.setRlen_rlen (s : State) (n : Len) : (s.setRlen n).rlen = n := rfl
@[simp] theorem State.setRlen_inReset (s : State) (n : Len) : (s.setRlen n).inReset = s.inReset := rfl
@[simp] theorem State.setRlen_host (s : State) (n : Len) : (s.setRlen n).host = s.host := rfl
@[simp] theorem State.setRlen_sched (s : State) (n : Len) : (s.setRlen n).sched = s.sched := rfl
@[simp] theorem State.setRlen_reads (s : State) (n : Len) : (s.setRlen n).reads = s.reads := rfl
@[simp] theorem State.setRlen_stepNo (s : State) (n : Len) : (s.setRlen n).stepNo = s.stepNo := rfl

@[simp] theorem State.setPbuf_tstate (s : State) (m : Memory) : (s.setPbuf m).tstate = s.tstate := rfl
@[simp] theorem State.setPbuf_expTab (s : State) (m : Memory) : (s.setPbuf m).expTab = s.expTab := rfl
@[simp] theorem State.setPbuf_logTab (s : State) (m : Memory) : (s.setPbuf m).logTab = s.logTab := rfl
@[simp] theorem State.setPbuf_busy (s : State) (m : Memory) : (s.setPbuf m).busy = s.busy := rfl
@[simp] theorem State.setPbuf_pend (s : State) (m : Memory) : (s.setPbuf m).pend = s.pend := rfl
@[simp] theorem State.setPbuf_err (s : State) (m : Memory) : (s.setPbuf m).err = s.err := rfl
@[simp] theorem State.setPbuf_ecode (s : State) (m : Memory) : (s.setPbuf m).ecode = s.ecode := rfl
@[simp] theorem State.setPbuf_result (s : State) (m : Memory) : (s.setPbuf m).result = s.result := rfl
@[simp] theorem State.setPbuf_pbuf (s : State) (m : Memory) : (s.setPbuf m).pbuf = m := rfl
@[simp] theorem State.setPbuf_qbuf (s : State) (m : Memory) : (s.setPbuf m).qbuf = s.qbuf := rfl
@[simp] theorem State.setPbuf_rbuf (s : State) (m : Memory) : (s.setPbuf m).rbuf = s.rbuf := rfl
@[simp] theorem State.setPbuf_plen (s : State) (m : Memory) : (s.setPbuf m).plen = s.plen := rfl
@[simp] theorem State.setPbuf_qlen (s : State) (m : Memory) : (s.setPbuf m).qlen = s.qlen := rfl
@[simp] theorem State.setPbuf_rlen (s : State) (m : Memory) : (s.setPbuf m).rlen = s.rlen := rfl
@[simp] theorem State.setPbuf_inReset (s : State) (m : Memory) : (s.setPbuf m).inReset = s.inReset := rfl
@[simp] theorem State.setPbuf_host (s : State) (m : Memory) : (s.setPbuf m).host = s.host := rfl
@[simp] theorem State.setPbuf_sched (s : State) (m : Memory) : (s.setPbuf m).sched = s.sched := rfl
@[simp] theorem State.setPbuf_reads (s : State) (m : Memory) : (s.setPbuf m).reads = s.reads := rfl
@[simp] theorem State.setPbuf_stepNo (s : State) (m : Memory) : (s.setPbuf m).stepNo = s.stepNo := rfl

@[simp] theorem State.setQbuf_tstate (s : State) (m : Memory) : (s.setQbuf m).tstate = s.tstate := rfl
@[simp] theorem State.setQbuf_expTab (s : State) (m : Memory) : (s.setQbuf m).expTab = s.expTab := rfl
@[simp] theorem State.setQbuf_logTab (s : State) (m : Memory) : (s.setQbuf m).logTab = s.logTab := rfl
@[simp] theorem State.setQbuf_busy (s : State) (m : Memory) : (s.setQbuf m).busy = s.busy := rfl
@[simp] theorem State.setQbuf_pend (s : State) (m : Memory) : (s.setQbuf m).pend = s.pend := rfl
@[simp] theorem State.setQbuf_err (s : State) (m : Memory) : (s.setQbuf m).err = s.err := rfl
@[simp] theorem State.setQbuf_ecode (s : State) (m : Memory) : (s.setQbuf m).ecode = s.ecode := rfl
@[simp] theorem State.setQbuf_result (s : State) (m : Memory) : (s.setQbuf m).result = s.result := rfl
@[simp] theorem State.setQbuf_pbuf (s : State) (m : Memory) : (s.setQbuf m).pbuf = s.pbuf := rfl
@[simp] theorem State.setQbuf_qbuf (s : State) (m : Memory) : (s.setQbuf m).qbuf = m := rfl
@[simp] theorem State.setQbuf_rbuf (s : State) (m : Memory) : (s.setQbuf m).rbuf = s.rbuf := rfl
@[simp] theorem State.setQbuf_plen (s : State) (m : Memory) : (s.setQbuf m).plen = s.plen := rfl
@[simp] theorem State.setQbuf_qlen (s : State) (m : Memory) : (s.setQbuf m).qlen = s.qlen := rfl
@[simp] theorem State.setQbuf_rlen (s : State) (m : Memory) : (s.setQbuf m).rlen = s.rlen := rfl
@[simp] theorem State.setQbuf_inReset (s : State) (m : Memory) : (s.setQbuf m).inReset = s.inReset := rfl
@[simp] theorem State.setQbuf_host (s : State) (m : Memory) : (s.setQbuf m).host = s.host := rfl
@[simp] theorem State.setQbuf_sched (s : State) (m : Memory) : (s.setQbuf m).sched = s.sched := rfl
@[simp] theorem State.setQbuf_reads (s : State) (m : Memory) : (s.setQbuf m).reads = s.reads := rfl
@[simp] theorem State.setQbuf_stepNo (s : State) (m : Memory) : (s.setQbuf m).stepNo = s.stepNo := rfl

@[simp] theorem State.setRbuf_tstate (s : State) (m : Memory) : (s.setRbuf m).tstate = s.tstate := rfl
@[simp] theorem State.setRbuf_expTab (s : State) (m : Memory) : (s.setRbuf m).expTab = s.expTab := rfl
@[simp] theorem State.setRbuf_logTab (s : State) (m : Memory) : (s.setRbuf m).logTab = s.logTab := rfl
@[simp] theorem State.setRbuf_busy (s : State) (m : Memory) : (s.setRbuf m).busy = s.busy := rfl
@[simp] theorem State.setRbuf_pend (s : State) (m : Memory) : (s.setRbuf m).pend = s.pend := rfl
@[simp] theorem State.setRbuf_err (s : State) (m : Memory) : (s.setRbuf m).err = s.err := rfl
@[simp] theorem State.setRbuf_ecode (s : State) (m : Memory) : (s.setRbuf m).ecode = s.ecode := rfl
@[simp] theorem State.setRbuf_result (s : State) (m : Memory) : (s.setRbuf m).result = s.result := rfl
@[simp] theorem State.setRbuf_pbuf (s : State) (m : Memory) : (s.setRbuf m).pbuf = s.pbuf := rfl
@[simp] theorem State.setRbuf_qbuf (s : State) (m : Memory) : (s.setRbuf m).qbuf = s.qbuf := rfl
@[simp] theorem State.setRbuf_rbuf (s : State) (m : Memory) : (s.setRbuf m).rbuf = m := rfl
@[simp] theorem State.setRbuf_plen (s : State) (m : Memory) : (s.setRbuf m).plen = s.plen := rfl
@[simp] theorem State.setRbuf_qlen (s : State) (m : Memory) : (s.setRbuf m).qlen = s.qlen := rfl
@[simp] theorem State.setRbuf_rlen (s : State) (m : Memory) : (s.setRbuf m).rlen = s.rlen := rfl
@[simp] theorem State.setRbuf_inReset (s : State) (m : Memory) : (s.setRbuf m).inReset = s.inReset := rfl
@[simp] theorem State.setRbuf_host (s : State) (m : Memory) : (s.setRbuf m).host = s.host := rfl
@[simp] theorem State.setRbuf_sched (s : State) (m : Memory) : (s.setRbuf m).sched = s.sched := rfl
@[simp] theorem State.setRbuf_reads (s : State) (m : Memory) : (s.setRbuf m).reads = s.reads := rfl
@[simp] theorem State.setRbuf_stepNo (s : State) (m : Memory) : (s.setRbuf m).stepNo = s.stepNo := rfl

@[simp] theorem State.setTables_tstate (s : State) (e l : Memory) : (s.setTables e l).tstate = .ready := rfl
@[simp] theorem State.setTables_expTab (s : State) (e l : Memory) : (s.setTables e l).expTab = e := rfl
@[simp] theorem State.setTables_logTab (s : State) (e l : Memory) : (s.setTables e l).logTab = l := rfl
@[simp] theorem State.setTables_busy (s : State) (e l : Memory) : (s.setTables e l).busy = s.busy := rfl
@[simp] theorem State.setTables_pend (s : State) (e l : Memory) : (s.setTables e l).pend = s.pend := rfl
@[simp] theorem State.setTables_err (s : State) (e l : Memory) : (s.setTables e l).err = s.err := rfl
@[simp] theorem State.setTables_ecode (s : State) (e l : Memory) : (s.setTables e l).ecode = s.ecode := rfl
@[simp] theorem State.setTables_result (s : State) (e l : Memory) : (s.setTables e l).result = s.result := rfl
@[simp] theorem State.setTables_pbuf (s : State) (e l : Memory) : (s.setTables e l).pbuf = s.pbuf := rfl
@[simp] theorem State.setTables_qbuf (s : State) (e l : Memory) : (s.setTables e l).qbuf = s.qbuf := rfl
@[simp] theorem State.setTables_rbuf (s : State) (e l : Memory) : (s.setTables e l).rbuf = s.rbuf := rfl
@[simp] theorem State.setTables_plen (s : State) (e l : Memory) : (s.setTables e l).plen = s.plen := rfl
@[simp] theorem State.setTables_qlen (s : State) (e l : Memory) : (s.setTables e l).qlen = s.qlen := rfl
@[simp] theorem State.setTables_rlen (s : State) (e l : Memory) : (s.setTables e l).rlen = s.rlen := rfl
@[simp] theorem State.setTables_inReset (s : State) (e l : Memory) : (s.setTables e l).inReset = s.inReset := rfl
@[simp] theorem State.setTables_host (s : State) (e l : Memory) : (s.setTables e l).host = s.host := rfl
@[simp] theorem State.setTables_sched (s : State) (e l : Memory) : (s.setTables e l).sched = s.sched := rfl
@[simp] theorem State.setTables_reads (s : State) (e l : Memory) : (s.setTables e l).reads = s.reads := rfl
@[simp] theorem State.setTables_stepNo (s : State) (e l : Memory) : (s.setTables e l).stepNo = s.stepNo := rfl

@[simp] theorem State.setCfgFail_tstate (s : State) : s.setCfgFail.tstate = .cfgFail := rfl
@[simp] theorem State.setCfgFail_expTab (s : State) : s.setCfgFail.expTab = s.expTab := rfl
@[simp] theorem State.setCfgFail_logTab (s : State) : s.setCfgFail.logTab = s.logTab := rfl
@[simp] theorem State.setCfgFail_busy (s : State) : s.setCfgFail.busy = s.busy := rfl
@[simp] theorem State.setCfgFail_pend (s : State) : s.setCfgFail.pend = s.pend := rfl
@[simp] theorem State.setCfgFail_err (s : State) : s.setCfgFail.err = s.err := rfl
@[simp] theorem State.setCfgFail_ecode (s : State) : s.setCfgFail.ecode = s.ecode := rfl
@[simp] theorem State.setCfgFail_result (s : State) : s.setCfgFail.result = s.result := rfl
@[simp] theorem State.setCfgFail_pbuf (s : State) : s.setCfgFail.pbuf = s.pbuf := rfl
@[simp] theorem State.setCfgFail_qbuf (s : State) : s.setCfgFail.qbuf = s.qbuf := rfl
@[simp] theorem State.setCfgFail_rbuf (s : State) : s.setCfgFail.rbuf = s.rbuf := rfl
@[simp] theorem State.setCfgFail_plen (s : State) : s.setCfgFail.plen = s.plen := rfl
@[simp] theorem State.setCfgFail_qlen (s : State) : s.setCfgFail.qlen = s.qlen := rfl
@[simp] theorem State.setCfgFail_rlen (s : State) : s.setCfgFail.rlen = s.rlen := rfl
@[simp] theorem State.setCfgFail_inReset (s : State) : s.setCfgFail.inReset = s.inReset := rfl
@[simp] theorem State.setCfgFail_host (s : State) : s.setCfgFail.host = s.host := rfl
@[simp] theorem State.setCfgFail_sched (s : State) : s.setCfgFail.sched = s.sched := rfl
@[simp] theorem State.setCfgFail_reads (s : State) : s.setCfgFail.reads = s.reads := rfl
@[simp] theorem State.setCfgFail_stepNo (s : State) : s.setCfgFail.stepNo = s.stepNo := rfl

@[simp] theorem State.recordError_tstate (s : State) (c : ErrCode) : (s.recordError c).tstate = s.tstate := rfl
@[simp] theorem State.recordError_expTab (s : State) (c : ErrCode) : (s.recordError c).expTab = s.expTab := rfl
@[simp] theorem State.recordError_logTab (s : State) (c : ErrCode) : (s.recordError c).logTab = s.logTab := rfl
@[simp] theorem State.recordError_busy (s : State) (c : ErrCode) : (s.recordError c).busy = s.busy := rfl
@[simp] theorem State.recordError_pend (s : State) (c : ErrCode) : (s.recordError c).pend = s.pend := rfl
@[simp] theorem State.recordError_err (s : State) (c : ErrCode) : (s.recordError c).err = true := rfl
@[simp] theorem State.recordError_ecode (s : State) (c : ErrCode) : (s.recordError c).ecode = c.bits := rfl
@[simp] theorem State.recordError_result (s : State) (c : ErrCode) : (s.recordError c).result = s.result := rfl
@[simp] theorem State.recordError_pbuf (s : State) (c : ErrCode) : (s.recordError c).pbuf = s.pbuf := rfl
@[simp] theorem State.recordError_qbuf (s : State) (c : ErrCode) : (s.recordError c).qbuf = s.qbuf := rfl
@[simp] theorem State.recordError_rbuf (s : State) (c : ErrCode) : (s.recordError c).rbuf = s.rbuf := rfl
@[simp] theorem State.recordError_plen (s : State) (c : ErrCode) : (s.recordError c).plen = s.plen := rfl
@[simp] theorem State.recordError_qlen (s : State) (c : ErrCode) : (s.recordError c).qlen = s.qlen := rfl
@[simp] theorem State.recordError_rlen (s : State) (c : ErrCode) : (s.recordError c).rlen = s.rlen := rfl
@[simp] theorem State.recordError_inReset (s : State) (c : ErrCode) : (s.recordError c).inReset = s.inReset := rfl
@[simp] theorem State.recordError_host (s : State) (c : ErrCode) : (s.recordError c).host = s.host := rfl
@[simp] theorem State.recordError_sched (s : State) (c : ErrCode) : (s.recordError c).sched = s.sched := rfl
@[simp] theorem State.recordError_reads (s : State) (c : ErrCode) : (s.recordError c).reads = s.reads := rfl
@[simp] theorem State.recordError_stepNo (s : State) (c : ErrCode) : (s.recordError c).stepNo = s.stepNo := rfl

@[simp] theorem State.clearError_tstate (s : State) : s.clearError.tstate = s.tstate := rfl
@[simp] theorem State.clearError_expTab (s : State) : s.clearError.expTab = s.expTab := rfl
@[simp] theorem State.clearError_logTab (s : State) : s.clearError.logTab = s.logTab := rfl
@[simp] theorem State.clearError_busy (s : State) : s.clearError.busy = s.busy := rfl
@[simp] theorem State.clearError_pend (s : State) : s.clearError.pend = s.pend := rfl
@[simp] theorem State.clearError_err (s : State) : s.clearError.err = false := rfl
@[simp] theorem State.clearError_ecode (s : State) : s.clearError.ecode = 0#4 := rfl
@[simp] theorem State.clearError_result (s : State) : s.clearError.result = s.result := rfl
@[simp] theorem State.clearError_pbuf (s : State) : s.clearError.pbuf = s.pbuf := rfl
@[simp] theorem State.clearError_qbuf (s : State) : s.clearError.qbuf = s.qbuf := rfl
@[simp] theorem State.clearError_rbuf (s : State) : s.clearError.rbuf = s.rbuf := rfl
@[simp] theorem State.clearError_plen (s : State) : s.clearError.plen = s.plen := rfl
@[simp] theorem State.clearError_qlen (s : State) : s.clearError.qlen = s.qlen := rfl
@[simp] theorem State.clearError_rlen (s : State) : s.clearError.rlen = s.rlen := rfl
@[simp] theorem State.clearError_inReset (s : State) : s.clearError.inReset = s.inReset := rfl
@[simp] theorem State.clearError_host (s : State) : s.clearError.host = s.host := rfl
@[simp] theorem State.clearError_sched (s : State) : s.clearError.sched = s.sched := rfl
@[simp] theorem State.clearError_reads (s : State) : s.clearError.reads = s.reads := rfl
@[simp] theorem State.clearError_stepNo (s : State) : s.clearError.stepNo = s.stepNo := rfl

@[simp] theorem State.accept_tstate (s : State) (v : Word) : (s.accept v).tstate = s.tstate := rfl
@[simp] theorem State.accept_expTab (s : State) (v : Word) : (s.accept v).expTab = s.expTab := rfl
@[simp] theorem State.accept_logTab (s : State) (v : Word) : (s.accept v).logTab = s.logTab := rfl
@[simp] theorem State.accept_busy (s : State) (v : Word) : (s.accept v).busy = true := rfl
@[simp] theorem State.accept_pend (s : State) (v : Word) : (s.accept v).pend = some v := rfl
@[simp] theorem State.accept_err (s : State) (v : Word) : (s.accept v).err = s.err := rfl
@[simp] theorem State.accept_ecode (s : State) (v : Word) : (s.accept v).ecode = s.ecode := rfl
@[simp] theorem State.accept_result (s : State) (v : Word) : (s.accept v).result = s.result := rfl
@[simp] theorem State.accept_pbuf (s : State) (v : Word) : (s.accept v).pbuf = s.pbuf := rfl
@[simp] theorem State.accept_qbuf (s : State) (v : Word) : (s.accept v).qbuf = s.qbuf := rfl
@[simp] theorem State.accept_rbuf (s : State) (v : Word) : (s.accept v).rbuf = s.rbuf := rfl
@[simp] theorem State.accept_plen (s : State) (v : Word) : (s.accept v).plen = s.plen := rfl
@[simp] theorem State.accept_qlen (s : State) (v : Word) : (s.accept v).qlen = s.qlen := rfl
@[simp] theorem State.accept_rlen (s : State) (v : Word) : (s.accept v).rlen = s.rlen := rfl
@[simp] theorem State.accept_inReset (s : State) (v : Word) : (s.accept v).inReset = s.inReset := rfl
@[simp] theorem State.accept_host (s : State) (v : Word) : (s.accept v).host = s.host := rfl
@[simp] theorem State.accept_sched (s : State) (v : Word) : (s.accept v).sched = s.sched := rfl
@[simp] theorem State.accept_reads (s : State) (v : Word) : (s.accept v).reads = s.reads := rfl
@[simp] theorem State.accept_stepNo (s : State) (v : Word) : (s.accept v).stepNo = s.stepNo := rfl

@[simp] theorem State.retire_tstate (s : State) : s.retire.tstate = s.tstate := rfl
@[simp] theorem State.retire_expTab (s : State) : s.retire.expTab = s.expTab := rfl
@[simp] theorem State.retire_logTab (s : State) : s.retire.logTab = s.logTab := rfl
@[simp] theorem State.retire_busy (s : State) : s.retire.busy = false := rfl
@[simp] theorem State.retire_pend (s : State) : s.retire.pend = none := rfl
@[simp] theorem State.retire_err (s : State) : s.retire.err = s.err := rfl
@[simp] theorem State.retire_ecode (s : State) : s.retire.ecode = s.ecode := rfl
@[simp] theorem State.retire_result (s : State) : s.retire.result = s.result := rfl
@[simp] theorem State.retire_pbuf (s : State) : s.retire.pbuf = s.pbuf := rfl
@[simp] theorem State.retire_qbuf (s : State) : s.retire.qbuf = s.qbuf := rfl
@[simp] theorem State.retire_rbuf (s : State) : s.retire.rbuf = s.rbuf := rfl
@[simp] theorem State.retire_plen (s : State) : s.retire.plen = s.plen := rfl
@[simp] theorem State.retire_qlen (s : State) : s.retire.qlen = s.qlen := rfl
@[simp] theorem State.retire_rlen (s : State) : s.retire.rlen = s.rlen := rfl
@[simp] theorem State.retire_inReset (s : State) : s.retire.inReset = s.inReset := rfl
@[simp] theorem State.retire_host (s : State) : s.retire.host = s.host := rfl
@[simp] theorem State.retire_sched (s : State) : s.retire.sched = s.sched := rfl
@[simp] theorem State.retire_reads (s : State) : s.retire.reads = s.reads := rfl
@[simp] theorem State.retire_stepNo (s : State) : s.retire.stepNo = s.stepNo := rfl

@[simp] theorem State.setInReset_tstate (s : State) (b : Bool) : (s.setInReset b).tstate = s.tstate := rfl
@[simp] theorem State.setInReset_expTab (s : State) (b : Bool) : (s.setInReset b).expTab = s.expTab := rfl
@[simp] theorem State.setInReset_logTab (s : State) (b : Bool) : (s.setInReset b).logTab = s.logTab := rfl
@[simp] theorem State.setInReset_busy (s : State) (b : Bool) : (s.setInReset b).busy = s.busy := rfl
@[simp] theorem State.setInReset_pend (s : State) (b : Bool) : (s.setInReset b).pend = s.pend := rfl
@[simp] theorem State.setInReset_err (s : State) (b : Bool) : (s.setInReset b).err = s.err := rfl
@[simp] theorem State.setInReset_ecode (s : State) (b : Bool) : (s.setInReset b).ecode = s.ecode := rfl
@[simp] theorem State.setInReset_result (s : State) (b : Bool) : (s.setInReset b).result = s.result := rfl
@[simp] theorem State.setInReset_pbuf (s : State) (b : Bool) : (s.setInReset b).pbuf = s.pbuf := rfl
@[simp] theorem State.setInReset_qbuf (s : State) (b : Bool) : (s.setInReset b).qbuf = s.qbuf := rfl
@[simp] theorem State.setInReset_rbuf (s : State) (b : Bool) : (s.setInReset b).rbuf = s.rbuf := rfl
@[simp] theorem State.setInReset_plen (s : State) (b : Bool) : (s.setInReset b).plen = s.plen := rfl
@[simp] theorem State.setInReset_qlen (s : State) (b : Bool) : (s.setInReset b).qlen = s.qlen := rfl
@[simp] theorem State.setInReset_rlen (s : State) (b : Bool) : (s.setInReset b).rlen = s.rlen := rfl
@[simp] theorem State.setInReset_inReset (s : State) (b : Bool) : (s.setInReset b).inReset = b := rfl
@[simp] theorem State.setInReset_host (s : State) (b : Bool) : (s.setInReset b).host = s.host := rfl
@[simp] theorem State.setInReset_sched (s : State) (b : Bool) : (s.setInReset b).sched = s.sched := rfl
@[simp] theorem State.setInReset_reads (s : State) (b : Bool) : (s.setInReset b).reads = s.reads := rfl
@[simp] theorem State.setInReset_stepNo (s : State) (b : Bool) : (s.setInReset b).stepNo = s.stepNo := rfl

@[simp] theorem State.setHost_tstate (s : State) (h : List HostOp) : (s.setHost h).tstate = s.tstate := rfl
@[simp] theorem State.setHost_expTab (s : State) (h : List HostOp) : (s.setHost h).expTab = s.expTab := rfl
@[simp] theorem State.setHost_logTab (s : State) (h : List HostOp) : (s.setHost h).logTab = s.logTab := rfl
@[simp] theorem State.setHost_busy (s : State) (h : List HostOp) : (s.setHost h).busy = s.busy := rfl
@[simp] theorem State.setHost_pend (s : State) (h : List HostOp) : (s.setHost h).pend = s.pend := rfl
@[simp] theorem State.setHost_err (s : State) (h : List HostOp) : (s.setHost h).err = s.err := rfl
@[simp] theorem State.setHost_ecode (s : State) (h : List HostOp) : (s.setHost h).ecode = s.ecode := rfl
@[simp] theorem State.setHost_result (s : State) (h : List HostOp) : (s.setHost h).result = s.result := rfl
@[simp] theorem State.setHost_pbuf (s : State) (h : List HostOp) : (s.setHost h).pbuf = s.pbuf := rfl
@[simp] theorem State.setHost_qbuf (s : State) (h : List HostOp) : (s.setHost h).qbuf = s.qbuf := rfl
@[simp] theorem State.setHost_rbuf (s : State) (h : List HostOp) : (s.setHost h).rbuf = s.rbuf := rfl
@[simp] theorem State.setHost_plen (s : State) (h : List HostOp) : (s.setHost h).plen = s.plen := rfl
@[simp] theorem State.setHost_qlen (s : State) (h : List HostOp) : (s.setHost h).qlen = s.qlen := rfl
@[simp] theorem State.setHost_rlen (s : State) (h : List HostOp) : (s.setHost h).rlen = s.rlen := rfl
@[simp] theorem State.setHost_inReset (s : State) (h : List HostOp) : (s.setHost h).inReset = s.inReset := rfl
@[simp] theorem State.setHost_host (s : State) (h : List HostOp) : (s.setHost h).host = h := rfl
@[simp] theorem State.setHost_sched (s : State) (h : List HostOp) : (s.setHost h).sched = s.sched := rfl
@[simp] theorem State.setHost_reads (s : State) (h : List HostOp) : (s.setHost h).reads = s.reads := rfl
@[simp] theorem State.setHost_stepNo (s : State) (h : List HostOp) : (s.setHost h).stepNo = s.stepNo := rfl

@[simp] theorem State.logRead_tstate (s : State) (v : Word) : (s.logRead v).tstate = s.tstate := rfl
@[simp] theorem State.logRead_expTab (s : State) (v : Word) : (s.logRead v).expTab = s.expTab := rfl
@[simp] theorem State.logRead_logTab (s : State) (v : Word) : (s.logRead v).logTab = s.logTab := rfl
@[simp] theorem State.logRead_busy (s : State) (v : Word) : (s.logRead v).busy = s.busy := rfl
@[simp] theorem State.logRead_pend (s : State) (v : Word) : (s.logRead v).pend = s.pend := rfl
@[simp] theorem State.logRead_err (s : State) (v : Word) : (s.logRead v).err = s.err := rfl
@[simp] theorem State.logRead_ecode (s : State) (v : Word) : (s.logRead v).ecode = s.ecode := rfl
@[simp] theorem State.logRead_result (s : State) (v : Word) : (s.logRead v).result = s.result := rfl
@[simp] theorem State.logRead_pbuf (s : State) (v : Word) : (s.logRead v).pbuf = s.pbuf := rfl
@[simp] theorem State.logRead_qbuf (s : State) (v : Word) : (s.logRead v).qbuf = s.qbuf := rfl
@[simp] theorem State.logRead_rbuf (s : State) (v : Word) : (s.logRead v).rbuf = s.rbuf := rfl
@[simp] theorem State.logRead_plen (s : State) (v : Word) : (s.logRead v).plen = s.plen := rfl
@[simp] theorem State.logRead_qlen (s : State) (v : Word) : (s.logRead v).qlen = s.qlen := rfl
@[simp] theorem State.logRead_rlen (s : State) (v : Word) : (s.logRead v).rlen = s.rlen := rfl
@[simp] theorem State.logRead_inReset (s : State) (v : Word) : (s.logRead v).inReset = s.inReset := rfl
@[simp] theorem State.logRead_host (s : State) (v : Word) : (s.logRead v).host = s.host := rfl
@[simp] theorem State.logRead_sched (s : State) (v : Word) : (s.logRead v).sched = s.sched := rfl
@[simp] theorem State.logRead_reads (s : State) (v : Word) : (s.logRead v).reads = v :: s.reads := rfl
@[simp] theorem State.logRead_stepNo (s : State) (v : Word) : (s.logRead v).stepNo = s.stepNo := rfl

@[simp] theorem State.endTurn_tstate (s : State) : s.endTurn.tstate = s.tstate := rfl
@[simp] theorem State.endTurn_expTab (s : State) : s.endTurn.expTab = s.expTab := rfl
@[simp] theorem State.endTurn_logTab (s : State) : s.endTurn.logTab = s.logTab := rfl
@[simp] theorem State.endTurn_busy (s : State) : s.endTurn.busy = s.busy := rfl
@[simp] theorem State.endTurn_pend (s : State) : s.endTurn.pend = s.pend := rfl
@[simp] theorem State.endTurn_err (s : State) : s.endTurn.err = s.err := rfl
@[simp] theorem State.endTurn_ecode (s : State) : s.endTurn.ecode = s.ecode := rfl
@[simp] theorem State.endTurn_result (s : State) : s.endTurn.result = s.result := rfl
@[simp] theorem State.endTurn_pbuf (s : State) : s.endTurn.pbuf = s.pbuf := rfl
@[simp] theorem State.endTurn_qbuf (s : State) : s.endTurn.qbuf = s.qbuf := rfl
@[simp] theorem State.endTurn_rbuf (s : State) : s.endTurn.rbuf = s.rbuf := rfl
@[simp] theorem State.endTurn_plen (s : State) : s.endTurn.plen = s.plen := rfl
@[simp] theorem State.endTurn_qlen (s : State) : s.endTurn.qlen = s.qlen := rfl
@[simp] theorem State.endTurn_rlen (s : State) : s.endTurn.rlen = s.rlen := rfl
@[simp] theorem State.endTurn_inReset (s : State) : s.endTurn.inReset = s.inReset := rfl
@[simp] theorem State.endTurn_host (s : State) : s.endTurn.host = s.host := rfl
@[simp] theorem State.endTurn_sched (s : State) : s.endTurn.sched = s.sched.tail := rfl
@[simp] theorem State.endTurn_reads (s : State) : s.endTurn.reads = s.reads := rfl
@[simp] theorem State.endTurn_stepNo (s : State) : s.endTurn.stepNo = s.stepNo + 1 := rfl

@[simp] theorem State.restart_tstate (s : State) : s.restart.tstate = .init := rfl
@[simp] theorem State.restart_expTab (s : State) : s.restart.expTab = [] := rfl
@[simp] theorem State.restart_logTab (s : State) : s.restart.logTab = [] := rfl
@[simp] theorem State.restart_busy (s : State) : s.restart.busy = false := rfl
@[simp] theorem State.restart_pend (s : State) : s.restart.pend = none := rfl
@[simp] theorem State.restart_err (s : State) : s.restart.err = false := rfl
@[simp] theorem State.restart_ecode (s : State) : s.restart.ecode = 0#4 := rfl
@[simp] theorem State.restart_result (s : State) : s.restart.result = 0x00#8 := rfl
@[simp] theorem State.restart_pbuf (s : State) : s.restart.pbuf = [] := rfl
@[simp] theorem State.restart_qbuf (s : State) : s.restart.qbuf = [] := rfl
@[simp] theorem State.restart_rbuf (s : State) : s.restart.rbuf = [] := rfl
@[simp] theorem State.restart_plen (s : State) : s.restart.plen = 0#9 := rfl
@[simp] theorem State.restart_qlen (s : State) : s.restart.qlen = 0#9 := rfl
@[simp] theorem State.restart_rlen (s : State) : s.restart.rlen = 0#9 := rfl
@[simp] theorem State.restart_inReset (s : State) : s.restart.inReset = false := rfl
@[simp] theorem State.restart_host (s : State) : s.restart.host = s.host := rfl
@[simp] theorem State.restart_sched (s : State) : s.restart.sched = s.sched := rfl
@[simp] theorem State.restart_reads (s : State) : s.restart.reads = s.reads := rfl
@[simp] theorem State.restart_stepNo (s : State) : s.restart.stepNo = s.stepNo := rfl

end Sys2Proof.Machine
end

