-- ==== Sys2Proof/Laws/Exec.lean ====
section
/-! SUPPORT. What the meaning of any command can do, said once: record an error, write RESULT, or write one buffer and
its length (spec/30_encoding.md R65). -/

namespace Sys2Proof.Machine

theorem lenOk_iff (n : Len) : lenOk n = true ↔ 1 ≤ n.toNat ∧ n.toNat ≤ 256 := by
  simp [lenOk, Config.maxLen]

theorem lenOk_eq_false_iff (n : Len) : lenOk n = false ↔ n.toNat = 0 ∨ 256 < n.toNat := by
  rw [← Bool.not_eq_true, lenOk_iff]; omega

@[simp] theorem State.coeffs_length (s : State) (m : Store) (n : Nat) : (s.coeffs m n).length = n := by
  simp [State.coeffs]

theorem State.coeffs_getElem (s : State) (m : Store) (n k : Nat) (h : k < n) :
    (s.coeffs m n)[k]? = some (s.cell m k) := by
  simp [State.coeffs, h]

@[simp] theorem State.product_length (s : State) : s.product.length = s.productLen := by
  simp [State.product]

theorem State.product_getElem (s : State) (k : Nat) (h : k < s.productLen) :
    s.product[k]? = some (s.productCoeff k) := by
  simp [State.product, h]

/-- A cell that holds a value is read as that value. -/
theorem State.cell_of_read {s : State} {m : Store} {i : Nat} {v : Byte} (h : (s.mem m).read i = some v) :
    s.cell m i = v := by
  simp [State.cell, h]

/-- A cell that holds no value is read as a free value. -/
theorem State.cell_of_none {s : State} {m : Store} {i : Nat} (h : (s.mem m).read i = none) :
    s.cell m i = Config.freeCell s.stepNo m i := by
  simp [State.cell, h]

/-- The result register's write, as one shape of a next state. -/
def WritesResult (s t : State) : Prop := ∃ v, t = s.setResult v

/-- PMUL's writes: the first n entries of RBUF, and RLEN = n. -/
def WritesProduct (s t : State) : Prop :=
  ∃ vs : List Byte, 1 ≤ vs.length ∧ vs.length ≤ 256 ∧
    t = (s.setRbuf (s.rbuf.writeFrom 0 vs)).setRlen (BitVec.ofNat 9 vs.length)

/-- PMONO's writes: two entries of QBUF, and QLEN = 2. -/
def WritesFactor (s t : State) : Prop :=
  ∃ a : Byte, t = (s.setQbuf (s.qbuf.writeFrom 0 [a, 0x01#8])).setQlen 2#9

/-- PMOVE's writes: the first RLEN entries of PBUF, and PLEN = RLEN. -/
def WritesOperand (s t : State) : Prop :=
  ∃ vs : List Byte, vs.length = s.rlen.toNat ∧ vs.length ≤ 256 ∧
    t = (s.setPbuf (s.pbuf.writeFrom 0 vs)).setPlen s.rlen

/-- Which commands write RESULT (R26). -/
def Instr.givesResult : Instr → Bool
  | .add _ _ | .mul _ _ | .inv _ | .pow _ _ | .exp _ | .log _ | .prim | .peval _ => true
  | .pmul | .pmono _ | .pmove => false

/-- Everything Exec can do. -/
theorem exec_cases {i : Instr} {s t : State} (h : exec i s = .next t) :
    (∃ c, t = s.recordError c) ∨ (Instr.givesResult i = true ∧ WritesResult s t) ∨
      (i = .pmul ∧ WritesProduct s t) ∨ ((∃ a, i = .pmono a) ∧ WritesFactor s t) ∨
      (i = .pmove ∧ WritesOperand s t) := by
  cases i with
  | add a b => injection h with h; exact .inr (.inl ⟨rfl, _, h.symm⟩)
  | mul a b => injection h with h; exact .inr (.inl ⟨rfl, _, h.symm⟩)
  | pow a e => injection h with h; exact .inr (.inl ⟨rfl, _, h.symm⟩)
  | exp e => injection h with h; exact .inr (.inl ⟨rfl, _, h.symm⟩)
  | prim => injection h with h; exact .inr (.inl ⟨rfl, _, h.symm⟩)
  | inv a =>
    simp only [exec, execInv] at h
    split at h <;> injection h with h
    · exact .inl ⟨_, h.symm⟩
    · exact .inr (.inl ⟨rfl, _, h.symm⟩)
  | log a =>
    simp only [exec, execLog] at h
    split at h <;> injection h with h
    · exact .inl ⟨_, h.symm⟩
    · exact .inr (.inl ⟨rfl, _, h.symm⟩)
  | peval a =>
    simp only [exec, execPeval] at h
    split at h <;> injection h with h
    · exact .inl ⟨_, h.symm⟩
    · exact .inr (.inl ⟨rfl, _, h.symm⟩)
  | pmono a =>
    injection h with h
    exact .inr (.inr (.inr (.inl ⟨⟨a, rfl⟩, a, h.symm⟩)))
  | pmul =>
    simp only [exec, execPmul] at h
    split at h
    · injection h with h; exact .inl ⟨_, h.symm⟩
    split at h
    · injection h with h; exact .inl ⟨_, h.symm⟩
    split at h
    · injection h with h; exact .inl ⟨_, h.symm⟩
    · rename_i h1 h2 h3
      injection h with h
      rw [Bool.not_eq_false, lenOk_iff] at h1 h2
      have hn : ¬256 < s.productLen := h3
      refine .inr (.inr (.inl ⟨rfl, s.product, ?_, ?_, by simpa using h.symm⟩))
      · rw [State.product_length, State.productLen]; omega
      · rw [State.product_length]; omega
  | pmove =>
    simp only [exec, execPmove] at h
    split at h
    · injection h with h; exact .inl ⟨_, h.symm⟩
    · rename_i h1
      injection h with h
      rw [Bool.not_eq_false, lenOk_iff] at h1
      exact .inr (.inr (.inr (.inr ⟨rfl, _, by simp, by simpa using h1.2, h.symm⟩)))

end Sys2Proof.Machine
end

