-- ==== Sys2Proof/Laws/Tables.lean ====
section
/-! SUPPORT. The generator's output for this hardware (spec/41_tables.md R91 to R93; 95_test_vectors.md section 2.2). -/

namespace Sys2Proof.Machine

theorem evalThen_eq {α : Type} (n : Nat) (f : Nat → α) : evalThen n f = f n := by
  cases n <;> rfl

/-- The walk of R91, one power at a time. -/
theorem powersFrom_succ (poly : BitVec 9) (prim : Byte) (n : Nat) (x : Byte) :
    powersFrom poly prim (n + 1) x = x :: powersFrom poly prim n (clmulMod poly x prim) := by
  simp [powersFrom, evalThen_eq]

/-- The i-th power of the walk. -/
theorem powersFrom_getElem (poly : BitVec 9) (prim : Byte) (n i : Nat) (x : Byte) (h : i < n) :
    (powersFrom poly prim n x)[i]? = some ((fun y => clmulMod poly y prim)^[i] x) := by
  induction n generalizing i x with
  | zero => omega
  | succ n ih =>
    rw [powersFrom_succ]
    cases i with
    | zero => rfl
    | succ i =>
      rw [List.getElem?_cons_succ, ih i _ (by omega), Function.iterate_succ_apply]

theorem powersFrom_length (poly : BitVec 9) (prim : Byte) (n : Nat) (x : Byte) :
    (powersFrom poly prim n x).length = n := by
  induction n generalizing x with
  | zero => rfl
  | succ n ih => simp [powersFrom_succ, ih]

/-- T[i] = PRIM^i (R91). -/
theorem candidate_getElem (poly : BitVec 9) (prim : Byte) (i : Nat) (h : i < 255) :
    (candidate poly prim)[i]? = some ((fun y => clmulMod poly y prim)^[i] 1#8) := by
  rw [candidate]
  exact powersFrom_getElem poly prim _ i _ h

theorem candidate_length (poly : BitVec 9) (prim : Byte) : (candidate poly prim).length = 255 := by
  rw [candidate, powersFrom_length, Config.order]

theorem listed_iff (x : Nat) (ys : List Nat) : listed x ys = true ↔ x ∈ ys := by
  induction ys with
  | nil => simp [listed]
  | cons y ys ih => simp [listed, ih]

theorem distinct_iff (xs : List Nat) : distinct xs = true ↔ xs.Nodup := by
  induction xs with
  | nil => simp [distinct]
  | cons x xs ih =>
    rw [List.nodup_cons, ← ih, ← listed_iff]
    simp [distinct]

/-- What check(T) says (R91): all values nonzero, pairwise distinct. -/
theorem checkTable_iff (t : List Byte) : checkTable t = true ↔ (∀ x ∈ t, x ≠ 0#8) ∧ t.Nodup := by
  unfold checkTable
  rw [Bool.and_eq_true, distinct_iff, List.nodup_map_iff (fun _ _ => BitVec.eq_of_toNat_eq)]
  refine and_congr_left (fun _ => ?_)
  simp only [List.all_eq_true, List.mem_map, forall_exists_index, and_imp, forall_apply_eq_imp_iff₂,
    Nat.blt_eq, ne_eq, ← BitVec.toNat_inj, BitVec.toNat_ofNat, Nat.zero_mod, Nat.pos_iff_ne_zero]

/-- What check(T) says of the walk (R91, R92). -/
theorem checkTable_candidate_iff (poly : BitVec 9) (prim : Byte) :
    checkTable (candidate poly prim) = true ↔
      (∀ i, i < 255 → (fun x => clmulMod poly x prim)^[i] 1#8 ≠ 0#8) ∧
      (∀ i j, i < j → j < 255 →
        (fun x => clmulMod poly x prim)^[i] 1#8 ≠ (fun x => clmulMod poly x prim)^[j] 1#8) := by
  have get : ∀ i (h : i < 255), (candidate poly prim)[i]'(by rw [candidate_length]; exact h) =
      (fun x => clmulMod poly x prim)^[i] 1#8 := fun i h => by
    have := candidate_getElem poly prim i h
    rwa [List.getElem?_eq_getElem (by rw [candidate_length]; exact h), Option.some_inj] at this
  rw [checkTable_iff]
  refine and_congr ⟨fun h i hi => ?_, fun h x hx => ?_⟩ ?_
  · rw [← get i hi]
    exact h _ (List.getElem_mem _)
  · obtain ⟨i, hi, rfl⟩ := List.getElem_of_mem hx
    rw [candidate_length] at hi
    rw [get i hi]
    exact h i hi
  · rw [List.nodup_iff_pairwise_ne, List.pairwise_iff_getElem]
    refine ⟨fun h i j hij hj => ?_, fun h i j hi hj hij => ?_⟩
    · rw [← get i (by omega), ← get j hj]
      exact h i j _ _ hij
    · rw [candidate_length] at hi hj
      rw [get i hi, get j hj]
      exact h i j hij hj

/-- The generator's EXP table is the one the spec lists. -/
theorem builtExp_eq : builtExp = listedExp := by decide +kernel

/-- The generator's LOG table is the one the spec lists. -/
theorem builtLog_eq : builtLog = listedLog := by decide +kernel

/-- The cyclic-group check passes for this hardware (R92). -/
theorem checkTable_hardware : checkTable (candidate Config.fieldPoly Config.prim) = true := by decide +kernel

/-- What BUILD does on this hardware (R91). -/
theorem build_eq (s : State) : build s = s.setTables builtExp builtLog := by
  unfold build buildWith builtExp builtLog
  exact if_pos checkTable_hardware

end Sys2Proof.Machine
end

