-- ==== Sys2Proof/Laws/Invariant.lean ====
section
/-! SUPPORT. The memories of the reset state are in canonical form, and the invariant can be checked by evaluation on a
concrete state. -/

namespace Sys2Proof.Machine

/-- The memories of the reset state are in canonical form. -/
theorem State.reset_mem_wf (m : Store) : (State.reset.mem m).wf = true := by
  cases m <;> rfl

/-- The invariant, as a check that evaluates. -/
def State.invCheck (s : State) : Bool :=
  [Store.exp, .log, .p, .q, .r].all (fun m => (s.mem m).wf && (s.mem m).below (cellCount m)) &&
  (s.logTab.read 0).isNone &&
  (decide (s.tstate ≠ .ready) || (decide (s.expTab = listedExp) && decide (s.logTab = listedLog))) &&
  decide (s.tstate ≠ .cfgFail) && s.busy == s.pend.isSome &&
  s.pend.all legal && (!s.busy || decide (s.tstate = .ready)) &&
  s.err == decide (s.ecode ≠ 0#4) && decide (s.ecode.toNat ≤ 8) && decide (s.rlen.toNat ≤ 256) &&
  (List.range s.rlen.toNat).all (fun i => (s.rbuf.read i).isSome)

/-- A state that passes the check meets the invariant. -/
theorem State.inv_of_check {s : State} (h : s.invCheck = true) : s.Inv := by
  unfold State.invCheck at h
  simp only [Bool.and_eq_true, List.all_eq_true, List.mem_cons, List.not_mem_nil, or_false,
    Option.isNone_iff_eq_none, Bool.or_eq_true, decide_eq_true_eq, beq_iff_eq, Bool.not_eq_true',
    List.mem_range] at h
  obtain ⟨⟨⟨⟨⟨⟨⟨⟨⟨⟨hm, hz⟩, ht⟩, hf⟩, hb⟩, hl⟩, hr⟩, he⟩, hc⟩, hn⟩, hp⟩ := h
  refine ⟨fun m => (hm m ?_).1, fun m => (hm m ?_).2, hz, fun hready => ?_, hf, hb, fun v hv => ?_, fun hbusy => ?_,
    ?_, hc, hn, hp⟩
  · cases m <;> simp
  · cases m <;> simp
  · rcases ht with ht | ht
    · exact absurd hready ht
    · rw [builtExp_eq, builtLog_eq]; exact ht
  · rw [hv] at hl; simpa using hl
  · rcases hr with hr | hr
    · rw [hbusy] at hr; cases hr
    · exact hr
  · rw [he, decide_eq_true_eq]

end Sys2Proof.Machine
end

