-- ==== Sys2Proof/Laws/PerInstr.lean ====
section
/-! SUPPORT. Statements made per instruction. Family EncodeFields: the word of a command has RSV = 0 and its own opcode
(spec/30_encoding.md R58, R61). -/

namespace Sys2Proof.Laws.EncodeFields

/-- The OP column of R61. -/
def opcode : Instr → BitVec 4
  | .add _ _ => 0x1#4
  | .mul _ _ => 0x2#4
  | .inv _ => 0x3#4
  | .pow _ _ => 0x4#4
  | .exp _ => 0x5#4
  | .log _ => 0x6#4
  | .prim => 0x7#4
  | .pmul => 0x8#4
  | .pmono _ => 0x9#4
  | .peval _ => 0xA#4
  | .pmove => 0xB#4

def Statement (i : Instr) : Prop := rsvField (encode i) = 0#4 ∧ opField (encode i) = opcode i

/-- A field of a word above bit 23 does not see the operands. -/
theorem top_field (c x : Word) (lo : Nat) (hlo : 24 ≤ lo) (hx : x.toNat < 2 ^ 24) :
    (c ||| x).extractLsb' lo 4 = c.extractLsb' lo 4 := by
  ext k hk
  have h : x.getLsbD (lo + k) = false := by
    rw [BitVec.getLsbD]
    exact Nat.testBit_lt_two_pow (Nat.lt_of_lt_of_le hx (Nat.pow_le_pow_right (by decide) (by omega)))
  simp [h]

theorem element_lt (a : Byte) : (a.setWidth 32 <<< 16).toNat < 2 ^ 24 := by
  have := a.isLt
  simp only [BitVec.toNat_shiftLeft, BitVec.toNat_setWidth, Nat.shiftLeft_eq]
  omega

theorem low_lt {w : Nat} (b : BitVec w) (hw : w ≤ 16) : (b.setWidth 32).toNat < 2 ^ 24 := by
  have h1 := b.isLt
  have h2 : (2 : Nat) ^ w ≤ 2 ^ 16 := Nat.pow_le_pow_right (by decide) hw
  simp only [BitVec.toNat_setWidth]
  omega

theorem add (a b : Byte) : Statement (.add a b) := by
  unfold Statement encode rsvField opField
  constructor <;>
    rw [top_field _ _ _ (by decide) (low_lt b (by decide)), top_field _ _ _ (by decide) (element_lt a)] <;> rfl

theorem mul (a b : Byte) : Statement (.mul a b) := by
  unfold Statement encode rsvField opField
  constructor <;>
    rw [top_field _ _ _ (by decide) (low_lt b (by decide)), top_field _ _ _ (by decide) (element_lt a)] <;> rfl

theorem pow (a : Byte) (e : Exponent) : Statement (.pow a e) := by
  unfold Statement encode rsvField opField
  constructor <;>
    rw [top_field _ _ _ (by decide) (low_lt e (by decide)), top_field _ _ _ (by decide) (element_lt a)] <;> rfl

theorem inv (a : Byte) : Statement (.inv a) := by
  unfold Statement encode rsvField opField
  constructor <;> rw [top_field _ _ _ (by decide) (element_lt a)] <;> rfl

theorem exp (e : Exponent) : Statement (.exp e) := by
  unfold Statement encode rsvField opField
  constructor <;> rw [top_field _ _ _ (by decide) (low_lt e (by decide))] <;> rfl

theorem log (a : Byte) : Statement (.log a) := by
  unfold Statement encode rsvField opField
  constructor <;> rw [top_field _ _ _ (by decide) (element_lt a)] <;> rfl

theorem prim : Statement .prim := ⟨rfl, rfl⟩

theorem pmul : Statement .pmul := ⟨rfl, rfl⟩

theorem pmono (a : Byte) : Statement (.pmono a) := by
  unfold Statement encode rsvField opField
  constructor <;> rw [top_field _ _ _ (by decide) (element_lt a)] <;> rfl

theorem peval (a : Byte) : Statement (.peval a) := by
  unfold Statement encode rsvField opField
  constructor <;> rw [top_field _ _ _ (by decide) (element_lt a)] <;> rfl

theorem pmove : Statement .pmove := ⟨rfl, rfl⟩

end Sys2Proof.Laws.EncodeFields
end

