-- ==== Sys2Proof/Laws/Steps.lean ====
section
/-! SUPPORT. What a host write, a CORE step, a HOST step and a step of the machine can do, each said once. -/

namespace Sys2Proof.Machine

/-- A register map entry names a cell inside its buffer (spec/10_state.md R27). -/
theorem regAt_index {off : Nat} :
    (∀ i, regAt off = .pbuf i → i < 256) ∧ (∀ i, regAt off = .qbuf i → i < 256) ∧
      (∀ i, regAt off = .rbuf i → i < 256) := by
  unfold regAt
  refine ⟨?_, ?_, ?_⟩ <;> intro i <;> split
  all_goals first
    | (split <;> intro h <;> cases h)
    | (split
       · intro h; cases h
       · split
         · intro h; first | (injection h with h; omega) | cases h
         · split
           · intro h; first | (injection h with h; omega) | cases h
           · split <;> intro h <;> first | (injection h with h; omega) | cases h)

/-- Everything a BusWrite can do (20_memory.md R46; 30_encoding.md R64). -/
theorem busWrite_cases (off : Nat) (v : Word) (s : State) :
    busWrite off v s = s ∨ (∃ c, busWrite off v s = s.recordError c) ∨ busWrite off v s = s.clearError ∨
      (s.tstate = .ready ∧ s.busy = false ∧ legal v = true ∧ busWrite off v s = s.accept v) ∨
      (s.busy = false ∧
        ((∃ n, busWrite off v s = s.setPlen n) ∨ (∃ n, busWrite off v s = s.setQlen n) ∨
         (∃ i b, i < 256 ∧ busWrite off v s = s.setPbuf (s.pbuf.write i b)) ∨
         (∃ i b, i < 256 ∧ busWrite off v s = s.setQbuf (s.qbuf.write i b)))) := by
  have hi := @regAt_index off
  unfold busWrite
  generalize regAt off = r at hi
  cases r with
  | status => by_cases h : clearsError v = true <;> simp [h]
  | cmd =>
    simp only [issue]
    by_cases h1 : s.tstate = .ready
    · by_cases h2 : s.busy = true
      · exact .inr (.inl ⟨.busyWrite, by simp [h1, h2]⟩)
      · by_cases h3 : legal v = true
        · exact .inr (.inr (.inr (.inl ⟨h1, by simpa using h2, h3, by simp [h1, h2, h3]⟩)))
        · exact .inr (.inl ⟨.illegalCmd, by simp [h1, h2, h3]⟩)
    · exact .inr (.inl ⟨.notReady, by simp [h1]⟩)
  | plen =>
    by_cases h : s.busy = true
    · exact .inr (.inl ⟨.busyWrite, by simp [State.unlessBusy, h]⟩)
    · exact .inr (.inr (.inr (.inr ⟨by simpa using h, .inl ⟨_, by simp [State.unlessBusy, h]; rfl⟩⟩)))
  | qlen =>
    by_cases h : s.busy = true
    · exact .inr (.inl ⟨.busyWrite, by simp [State.unlessBusy, h]⟩)
    · exact .inr (.inr (.inr (.inr ⟨by simpa using h, .inr (.inl ⟨_, by simp [State.unlessBusy, h]; rfl⟩)⟩)))
  | pbuf i =>
    by_cases h : s.busy = true
    · exact .inr (.inl ⟨.busyWrite, by simp [State.unlessBusy, h]⟩)
    · exact .inr (.inr (.inr (.inr ⟨by simpa using h,
        .inr (.inr (.inl ⟨i, _, hi.1 i rfl, by simp [State.unlessBusy, h]; rfl⟩))⟩)))
  | qbuf i =>
    by_cases h : s.busy = true
    · exact .inr (.inl ⟨.busyWrite, by simp [State.unlessBusy, h]⟩)
    · exact .inr (.inr (.inr (.inr ⟨by simpa using h,
        .inr (.inr (.inr ⟨i, _, hi.2.1 i rfl, by simp [State.unlessBusy, h]; rfl⟩))⟩)))
  | cfg => exact .inl rfl
  | cap => exact .inl rfl
  | result => exact .inl rfl
  | rlen => exact .inl rfl
  | reserved => exact .inl rfl
  | rbuf i => exact .inl rfl

/-- Everything COMPLETE can do (30_encoding.md R65). -/
theorem completeStep_next {s t : State} (h : completeStep s = .next t) :
    ∃ v i u, s.pend = some v ∧ decode v = .ok i ∧ exec i s = .next u ∧ t = u.retire := by
  unfold completeStep at h
  split at h
  · cases h
  · rename_i v hv
    split at h
    · cases h
    · rename_i i hi
      split at h
      · rename_i u hu
        injection h with h
        exact ⟨v, i, u, hv, hi, hu, h.symm⟩
      · cases h
      · cases h

/-- Everything CORE's turn can do (10_state.md R18). -/
theorem coreStep_next {s t : State} (h : coreStep s = .next t) :
    (s.coreEnabled = false ∧ t = s) ∨ (s.inReset = false ∧ s.tstate = .init ∧ t = build s) ∨
      (s.inReset = false ∧ s.tstate ≠ .init ∧ s.busy = true ∧ completeStep s = .next t) := by
  unfold coreStep at h
  split at h
  · rename_i hr
    injection h with h
    exact .inl ⟨by simp [State.coreEnabled, hr], h.symm⟩
  · rename_i hr
    rw [Bool.not_eq_true] at hr
    split at h
    · rename_i hi
      injection h with h
      exact .inr (.inl ⟨hr, hi, h.symm⟩)
    · rename_i hi
      split at h
      · rename_i hb
        exact .inr (.inr ⟨hr, hi, hb, h⟩)
      · rename_i hb
        injection h with h
        exact .inl ⟨by simp [State.coreEnabled, hi, hb], h.symm⟩

/-- Everything the host's turn can do (10_state.md R13): nothing, a read, or a write. -/
theorem hostStep_next {s t : State} (h : hostStep s = .next t) :
    (s.host = [] ∧ t = s) ∨
      (s.inReset = false ∧ ∃ off rest, t = (s.setHost rest).logRead (busRead off s)) ∨
      (s.inReset = false ∧ statusBusy (busRead 0x008 s) = true ∧ t = s.logRead (busRead 0x008 s)) ∨
      (s.inReset = false ∧ ∃ off v rest, t = busWrite off v (s.setHost rest)) := by
  unfold hostStep at h
  split at h
  · rename_i hh
    injection h with h
    exact .inl ⟨hh, h.symm⟩
  · split at h
    · cases h
    · rename_i hr
      rw [Bool.not_eq_true] at hr
      split at h
      · split at h
        · cases h
        · injection h with h
          exact .inr (.inl ⟨hr, _, _, h.symm⟩)
      · split at h
        · cases h
        · injection h with h
          exact .inr (.inr (.inr ⟨hr, _, _, _, h.symm⟩))
      · split at h
        · rename_i hb
          injection h with h
          exact .inr (.inr (.inl ⟨hr, hb, h.symm⟩))
        · injection h with h
          exact .inr (.inl ⟨hr, _, _, h.symm⟩)

/-- Everything a step can do: one turn, used up. -/
theorem step_next {s t : State} (h : step s = .next t) :
    ∃ u, takeTurn s.nextTurn s = .next u ∧ t = u.endTurn := by
  unfold step turnStep at h
  split at h
  · rename_i u hu
    injection h with h
    exact ⟨u, hu, h.symm⟩
  · cases h
  · cases h

/-- A step whose turn is u's. -/
theorem step_of_takeTurn {s u : State} (h : takeTurn s.nextTurn s = .next u) : step s = .next u.endTurn := by
  unfold step turnStep
  rw [h]

end Sys2Proof.Machine
end

