-- ==== Sys2Proof/Tests/Slice0.lean ====
section
/-! SUPPORT. The model's own tests, each with its expected result from spec/95_test_vectors.md or a rule's example, and
a witness for the hypotheses of every statement. -/

namespace Sys2Proof.Tests

open Sys2Proof.Machine

/-! States and observations. -/

/-- Right after a successful BUILD, with a value in RESULT that no test expects. -/
def ready : State :=
  { State.reset with tstate := .ready, expTab := listedExp, logTab := listedLog, result := 0xAB#8 }

/-- `ready` with two operand polynomials. -/
def loaded (p q : List Byte) : State :=
  { ready with
    pbuf := Memory.block 0 p, qbuf := Memory.block 0 q
    plen := BitVec.ofNat 9 p.length, qlen := BitVec.ofNat 9 q.length }

/-- `ready` with a pending command word. -/
def pending (v : Word) : State := ready.accept v

/-- A state with one host transaction, whose turn it is. -/
def asked (s : State) (op : HostOp) : State := { s with host := [op], sched := [.host] }

def after (o : Host.Outcome State Fault Refusal) : State :=
  match o with
  | .next t => t
  | .fault _ => State.reset
  | .refused _ => State.reset

def goesOn (o : Host.Outcome State Fault Refusal) : Bool :=
  match o with
  | .next _ => true
  | .fault _ => false
  | .refused _ => false

def refusal (o : Host.Outcome State Fault Refusal) : Option Refusal :=
  match o with
  | .refused r => some r
  | .next _ => none
  | .fault _ => none

/-- RESULT and STATUS after the step that runs a command word. -/
def ran (s : State) (w : Nat) : Byte × Word :=
  ((after (step (s.withFetchWord 32 w))).result, (after (step (s.withFetchWord 32 w))).status)

/-! Well-formedness: an ill-formed term for each check, refused (30_encoding.md R68). -/

theorem test_element_out_of_range :
    Asm.wellFormed (.add 256 0) = false ∧ Asm.wellFormed (.add 0 256) = false ∧
    Asm.wellFormed (.mul 256 0) = false ∧ Asm.wellFormed (.mul 0 256) = false ∧
    Asm.wellFormed (.sub 256 0) = false ∧ Asm.wellFormed (.sub 0 256) = false ∧
    Asm.wellFormed (.xor 256 0) = false ∧ Asm.wellFormed (.xor 0 256) = false ∧
    Asm.wellFormed (.inv 256) = false ∧ Asm.wellFormed (.log 256) = false ∧ Asm.wellFormed (.pmono 256) = false ∧
    Asm.wellFormed (.peval 256) = false ∧ Asm.wellFormed (.sqr 256) = false ∧
    Asm.wellFormed (.pow 256 0) = false := by decide

theorem test_exponent_out_of_range :
    Asm.wellFormed (.pow 0 65536) = false ∧ Asm.wellFormed (.exp 65536) = false ∧
    Asm.wellFormed (.alpha 65536) = false := by decide

theorem test_operands_in_range :
    Asm.wellFormed (.add 255 255) = true ∧ Asm.wellFormed (.pow 255 65535) = true := by decide

/-! Decoding: words written out bit by bit from R58 and R62's patterns (opcode_table.json, "encoding"). -/

theorem test_decode_add : decode 0b00000001010100110000000011001010#32 = .ok (.add 0x53#8 0xCA#8) := by decide

theorem test_decode_mul : decode 0b00000010010101110000000010000011#32 = .ok (.mul 0x57#8 0x83#8) := by decide

theorem test_decode_inv : decode 0b00000011100000110000000000000000#32 = .ok (.inv 0x83#8) := by decide

theorem test_decode_pow : decode 0b00000100000001110000000100101100#32 = .ok (.pow 0x07#8 300#16) := by decide

theorem test_decode_exp : decode 0b00000101000000000000000111111110#32 = .ok (.exp 510#16) := by decide

theorem test_decode_log : decode 0b00000110000111010000000000000000#32 = .ok (.log 0x1D#8) := by decide

theorem test_decode_prim : decode 0b00000111000000000000000000000000#32 = .ok .prim := by decide

theorem test_decode_pmul : decode 0b00001000000000000000000000000000#32 = .ok .pmul := by decide

theorem test_decode_pmono : decode 0b00001001000000100000000000000000#32 = .ok (.pmono 0x02#8) := by decide

theorem test_decode_peval : decode 0b00001010000000110000000000000000#32 = .ok (.peval 0x03#8) := by decide

theorem test_decode_pmove : decode 0b00001011000000000000000000000000#32 = .ok .pmove := by decide

/-- V-E1 to V-E8. -/
theorem test_decode_illegal :
    decode 0x00000000#32 = .error .opcode ∧ decode 0x0C000000#32 = .error .opcode ∧
    decode 0x0F000000#32 = .error .opcode ∧ decode 0x11020004#32 = .error .reservedBits ∧
    decode 0x01020104#32 = .error .unusedField ∧ decode 0x03530001#32 = .error .unusedField ∧
    decode 0x05010001#32 = .error .unusedField ∧ decode 0x07000001#32 = .error .unusedField := by decide

/-- 20_memory.md R40: byte off + k carries bits [8k+7 : 8k]. -/
theorem test_decode_bytes :
    decodeBytes [0x04#8, 0x00#8, 0x02#8, 0x02#8, 0xFF#8] = .ok (.mul 0x02#8 0x04#8, [0xFF#8]) ∧
    decodeBytes [0x00#8, 0x00#8, 0x00#8] = .error .shortWord := by decide

/-- R68's syntax and R69's pseudo-instructions; an operand out of range is rejected. -/
theorem test_assemble_line :
    assembleLine ['P', 'O', 'W', ' ', '0', 'x', '0', '2', ',', ' ', '2', '5', '5'] = some 0x040200FF#32 ∧
    assembleLine ['S', 'Q', 'R', ' ', '0', 'x', '8', 'E'] = some 0x028E008E#32 ∧
    assembleLine ['P', 'R', 'I', 'M'] = some 0x07000000#32 ∧
    assembleLine ['I', 'N', 'V', ' ', '2', '5', '6'] = none ∧
    assembleLine ['I', 'N', 'V'] = none := by decide

/-! Commands: one step each (95_test_vectors.md sections 2.1 to 2.3). -/

/-- V-F1. -/
theorem test_add : ran ready 0x015300CA = (0x99#8, 0x01#32) := by decide

/-- V-F4: the reduction. -/
theorem test_mul_reduces : ran ready 0x02800002 = (0x1D#8, 0x01#32) := by decide

/-- V-F9: a zero operand. -/
theorem test_mul_zero : ran ready 0x0200009A = (0x00#8, 0x01#32) := by decide

/-- V-F24. -/
theorem test_inv : ran ready 0x03530000 = (0x8C#8, 0x01#32) := by decide

/-- V-F20: RESULT unchanged, STATUS = 0x49. -/
theorem test_inv_zero : ran ready 0x03000000 = (0xAB#8, 0x49#32) := by decide

/-- V-F19e. -/
theorem test_pow : ran ready 0x04030019 = (0x7C#8, 0x01#32) := by decide

/-- V-F16: the exponent is not reduced before the test for a zero base. -/
theorem test_pow_zero_base : ran ready 0x0400FFFF = (0x00#8, 0x01#32) := by decide

/-- V-T12. -/
theorem test_exp_wraps : ran ready 0x050001FE = (0x01#8, 0x01#32) := by decide

/-- V-T18. -/
theorem test_log : ran ready 0x068E0000 = (0xFE#8, 0x01#32) := by decide

/-- V-T20: RESULT unchanged, STATUS = 0x59. -/
theorem test_log_zero : ran ready 0x06000000 = (0xAB#8, 0x59#32) := by decide

/-- V-F14. -/
theorem test_prim : ran ready 0x07000000 = (0x02#8, 0x01#32) := by decide

/-- V-P6. -/
theorem test_pmul :
    (after (step ((loaded [8, 6, 1] [8, 1]).withFetchWord 32 0x08000000))).rbuf =
      [(0, 64#8), (1, 56#8), (2, 14#8), (3, 1#8)] := by decide

/-- V-P12: the first check of R117. -/
theorem test_pmul_first_error :
    ran { ready with plen := 300#9, qlen := 300#9 } 0x08000000 = (0xAB#8, 0x69#32) := by decide

/-- V-P13. -/
theorem test_pmono :
    (after (step ((loaded [] [7, 7, 7]).withFetchWord 32 0x09020000))).qbuf = [(0, 2#8), (1, 1#8), (2, 7#8)] := by
  decide

/-- V-P17. -/
theorem test_peval : ran (loaded [8, 6, 1] []) 0x0A030000 = (0x07#8, 0x01#32) := by decide

/-- V-P22. -/
theorem test_peval_bad_len : ran ready 0x0A020000 = (0xAB#8, 0x69#32) := by decide

/-- V-P23. -/
theorem test_pmove :
    (after (step ({ ready with rlen := 2#9, rbuf := [(0, 64#8), (1, 56#8)], pbuf := [(1, 9#8), (2, 5#8)] }.withFetchWord
      32 0x0B000000))).pbuf = [(0, 64#8), (1, 56#8), (2, 5#8)] := by decide

/-- V-P24. -/
theorem test_pmove_after_reset : ran ready 0x0B000000 = (0xAB#8, 0x69#32) := by decide

/-! BUILD, issue and the bus (95_test_vectors.md sections 2.2 and 2.5). -/

/-- V-T2 to V-T5: the status after BUILD, by the check of R91. -/
theorem test_build_check :
    (buildWith 0x11D#9 0x01#8 State.reset).status = 0x8C#32 ∧ (buildWith 0x11D#9 0x03#8 State.reset).status = 0x8C#32 ∧
    (buildWith 0x11B#9 0x02#8 State.reset).status = 0x8C#32 := by decide +kernel

theorem test_build_passes : (build State.reset).status = 0x01#32 := by decide +kernel

/-- V-E10, V-E12: NOT_READY comes before ILLEGAL_CMD. -/
theorem test_issue_not_ready :
    (after (step (asked State.reset (hostW 0x00C 0x07000000#32)))).status = 0x28#32 ∧
    (after (step (asked State.reset (hostW 0x00C 0x00000000#32)))).status = 0x28#32 := by decide

/-- V-E13: BUSY_WRITE comes before ILLEGAL_CMD, and the pending MUL stays. -/
theorem test_issue_busy :
    (after (step (asked (pending 0x02020004#32) (hostW 0x00C 0x00000000#32)))).status = 0x3B#32 := by decide

/-- V-E4: ILLEGAL_CMD, BUSY stays 0. -/
theorem test_issue_illegal :
    (after (step (asked ready (hostW 0x00C 0x11020004#32)))).status = 0x19#32 := by decide

/-- V-E17. -/
theorem test_plen_nine_bits : (after (step (asked ready (hostW 0x014 0x3FF#32)))).plen = 0x1FF#9 := by decide

/-- V-E18. -/
theorem test_pbuf_eight_bits :
    (after (step (asked ready (hostW 0x400 0x12345678#32)))).pbuf = [(0, 0x78#8)] := by decide

/-- V-E15, V-E16. -/
theorem test_write_in_the_busy_window :
    (after (step (asked (pending 0x02020004#32) (hostW 0x014 5#32)))).status = 0x3B#32 ∧
    (after (step (asked ((pending 0x02020004#32).recordError .busyWrite) (hostW 0x008 8#32)))).status = 0x03#32 := by
  decide

/-- V-E20, V-E21. -/
theorem test_constant_reads :
    busRead 0x000 ready = 0x0002011D#32 ∧ busRead 0x004 ready = 0x00100100#32 ∧ busRead 0x00C ready = 0#32 ∧
    busRead 0x020 ready = 0#32 := by decide

/-! Witnesses: for each statement with hypotheses, a state and operands that meet all of them. -/

theorem ready_inv : ready.Inv := State.inv_of_check (by decide +kernel)

theorem init_inv : { ready with tstate := .init }.Inv := State.inv_of_check (by decide +kernel)

theorem pending_inv : (pending 0x08000000#32).Inv := State.inv_of_check (by decide +kernel)

theorem loaded_inv : (loaded [5, 0, 7] [1]).Inv := State.inv_of_check (by decide +kernel)

theorem witness_ResetValues : checkTable (candidate 0x11D#9 0x01#8) = false := by decide +kernel

theorem witness_StepKeepsTheInvariant : ready.Inv ∧ goesOn (step ready) = true :=
  ⟨ready_inv, by decide⟩

/-- Offsets 0x000 and 0xFFC are the window's ends. -/
theorem served_pending (v : Word) :
    { pending v with host := [hostR 0x000, hostW 0xFFC 0#32, hostWait], sched := [.host, .deassertReset] }.Served :=
  ⟨by simp [hostR, hostW, hostWait, HostOp.admitted], rfl, by simp⟩

theorem witness_ServedStateNeverStops :
    { pending 0x08000000#32 with
      host := [hostR 0x000, hostW 0xFFC 0#32, hostWait], sched := [.host, .deassertReset] }.Inv ∧
    { pending 0x08000000#32 with
      host := [hostR 0x000, hostW 0xFFC 0#32, hostWait], sched := [.host, .deassertReset] }.Served :=
  ⟨State.inv_of_check (by decide +kernel), served_pending _⟩

theorem witness_EnabledCoreStepIsTaken :
    { pending 0x08000000#32 with
      host := [hostR 0x000, hostW 0xFFC 0#32, hostWait], sched := [.host, .deassertReset] }.Inv ∧
    { pending 0x08000000#32 with
      host := [hostR 0x000, hostW 0xFFC 0#32, hostWait], sched := [.host, .deassertReset] }.Served ∧
    { pending 0x08000000#32 with
      host := [hostR 0x000, hostW 0xFFC 0#32, hostWait], sched := [.host, .deassertReset] }.coreEnabled = true :=
  ⟨State.inv_of_check (by decide +kernel), served_pending _, rfl⟩

theorem witness_ResetInput :
    { ready with sched := [.assertReset] }.nextTurn = .assertReset ∧
    ({ ready with inReset := true, sched := [.core] }.inReset = true ∧
      { ready with inReset := true, sched := [.core] }.nextTurn = .core) ∧
    { ready with inReset := true, host := [hostWait] }.nextTurn = .host ∧
    { ready with inReset := true, sched := [.deassertReset] }.nextTurn = .deassertReset := by decide

theorem witness_StepRunsThePendingCommand :
    (pending 0x02020004#32).inReset = false ∧ (pending 0x02020004#32).nextTurn = .core ∧
    (pending 0x02020004#32).tstate = .ready ∧ (pending 0x02020004#32).busy = true ∧
    (pending 0x02020004#32).pend = some 0x02020004#32 ∧ decode 0x02020004#32 = .ok (.mul 2#8 4#8) ∧
    goesOn (exec (.mul 2#8 4#8) (pending 0x02020004#32)) = true := by decide

theorem witness_FetchWordRunsNext : decodeTableWord 32 0x0402FFFF = some (.pow 0x02#8 0xFFFF#16) := by decide

theorem witness_EnabledCoreSteps :
    ({ ready with tstate := .init }.Inv ∧ { ready with tstate := .init }.inReset = false) ∧
    ((pending 0x08000000#32).Inv ∧ (pending 0x08000000#32).busy = true) ∧
    (ready.Inv ∧ ready.tstate ≠ .init ∧ ready.busy = false ∧ ready.inReset = false) :=
  ⟨⟨init_inv, rfl⟩, ⟨pending_inv, rfl⟩, ready_inv, by decide⟩

theorem witness_ReadsHaveNoSideEffect :
    (asked ready (hostR 0xFFC)).nextTurn = .host ∧ (asked ready (hostR 0xFFC)).host = [.read 0xFFC .word] ∧
    goesOn (step (asked ready (hostR 0xFFC))) = true ∧
    (asked ready hostWait).host = [.wait] ∧ goesOn (step (asked ready hostWait)) = true := by decide

theorem witness_AdmittedReadStep :
    (asked ready (hostR 0xFFC)).inReset = false ∧ (asked ready (hostR 0xFFC)).nextTurn = .host ∧
    (0xFFC < 0x1000 ∧ 0xFFC % 4 = 0) ∧ (asked ready (hostR 0xFFC)).host = [.read 0xFFC .word] := by decide

theorem witness_AdmittedWriteStep :
    (asked ready (hostW 0xBFC 1#32)).inReset = false ∧ (asked ready (hostW 0xBFC 1#32)).nextTurn = .host ∧
    (0xBFC < 0x1000 ∧ 0xBFC % 4 = 0) ∧ (asked ready (hostW 0xBFC 1#32)).host = [.write 0xBFC .word 1#32] := by decide

theorem witness_WaitPollsBusy :
    ((asked ready hostWait).inReset = false ∧ (asked ready hostWait).nextTurn = .host ∧
      (asked ready hostWait).host = [.wait] ∧ (asked ready hostWait).busy = false) ∧
    (asked (pending 0x07000000#32) hostWait).busy = true := by decide

/-- The window's ends, and the addresses next to them. -/
theorem witness_WindowAddresses :
    admitAccess (relOf Config.base) .word = .ok 0x000 ∧ admitAccess (relOf (Config.base + 0xFFC)) .word = .ok 0xFFC ∧
    admitAccess (relOf (Config.base + 0x1000)) .word = .error .outsideWindow := by
  have h (n : Nat) : relOf (Config.base + n) = (n : Int) := by unfold relOf; omega
  have h0 : relOf Config.base = 0 := by unfold relOf; omega
  rw [h0, h, h]
  exact ⟨by decide, by decide, by decide⟩

theorem witness_MisalignedOrSubWordHasNoStep :
    refusal (step (asked ready (.read 0x002 .word))) = some .misaligned ∧
    refusal (step (asked ready (.write 0x400 .byte 0#32))) = some .notOneWord ∧
    refusal (step (asked ready (.read 0x400 .double))) = some .notOneWord ∧
    (asked ready (.read 0x002 .word)).nextTurn = .host ∧ ready.inReset = false := by decide

/-- The first and last entry of each buffer (offsets 0x400, 0x7FC, 0x800, 0xBFC, 0xC00, 0xFFC), the ends of the reserved
range (0x020, 0x3FC), and, in the BUSY window, the ends of the hidden ranges (0x010, 0x01C, 0x400, 0xFFC). -/
theorem witness_BusReadByOffset :
    (busRead 0x020 ready = 0#32 ∧ busRead 0x3FC ready = 0#32) ∧
    ((loaded [3] [4]).busy = false ∧ busRead 0x400 (loaded [3] [4]) = 3#32 ∧ busRead 0x800 (loaded [3] [4]) = 4#32) ∧
    (busRead 0x7FC { ready with pbuf := [(255, 5#8)] } = 5#32 ∧
      busRead 0xBFC { ready with qbuf := [(255, 7#8)] } = 7#32 ∧
      busRead 0xC00 { ready with rbuf := [(0, 8#8)] } = 8#32 ∧
      busRead 0xFFC { ready with rbuf := [(255, 6#8)] } = 6#32) ∧
    ((pending 0x07000000#32).busy = true ∧
      ∀ off ∈ [0x010, 0x01C, 0x400, 0xFFC], busRead off (pending 0x07000000#32) = Config.freeWord 0) :=
  ⟨by decide, by decide, by decide, rfl, by simp [busRead, pending, ready, State.accept, State.reset, regAt, Reg.hiddenWhileBusy]⟩

theorem witness_EmptyEntryReadsFree :
    ready.busy = false ∧ ready.pbuf.read 255 = none ∧ ready.qbuf.read 0 = none ∧ ready.rbuf.read 255 = none := by decide

theorem witness_BusWriteByOffset :
    (8#32).getLsbD 3 = true ∧ (7#32).getLsbD 3 = false ∧ ready.busy = false ∧ (pending 0x07000000#32).busy = true := by
  decide

theorem witness_IssueChecksInOrder :
    State.reset.tstate ≠ .ready ∧ ((pending 0x07000000#32).tstate = .ready ∧ (pending 0x07000000#32).busy = true) ∧
    (ready.tstate = .ready ∧ ready.busy = false ∧ legal 0x07000001#32 = false ∧ legal 0x07000000#32 = true) := by decide

theorem witness_TablesHaveNoHostAddress :
    (asked ready (hostW 0x400 1#32)).nextTurn = .host ∧ goesOn (step (asked ready (hostW 0x400 1#32))) = true := by decide

theorem witness_PendingOperandsAreStable :
    (asked (pending 0x08000000#32) (hostW 0x014 1#32)).nextTurn = .host ∧
    (asked (pending 0x08000000#32) (hostW 0x014 1#32)).busy = true ∧
    goesOn (step (asked (pending 0x08000000#32) (hostW 0x014 1#32))) = true := by decide

theorem witness_LegalIsMatchAndMask :
    0x0A030000#32 &&& Op.peval.mask = Op.peval.pattern ∧ legal 0x0A030000#32 = true := by decide

theorem witness_EveryWordIsOneCommandOrIllegal :
    encode (.pmove) = 0x0B000000#32 ∧ encode (.pow 0xFF#8 0xFFFF#16) = 0x04FFFFFF#32 := by decide

theorem witness_AssemblerWordsAndPseudoInstructions :
    (assemble (.add 255 255)).map encode = some 0x01FF00FF#32 ∧
    (assemble (.pow 255 65535)).map encode = some 0x04FFFFFF#32 ∧
    assemble (.add 256 0) = none ∧ assemble (.sqr 256) = none ∧ assemble (.exp 65536) = none := by decide

theorem witness_AddIsXor :
    0x01FF00FF#32 &&& 0xFF00FF00#32 = 0x01000000#32 ∧ State.reset.tstate ≠ .ready ∧
    (pending 0x07000000#32).tstate = .ready ∧ (pending 0x07000000#32).busy = true := by decide

theorem witness_MulByTables :
    0x02FF00FF#32 &&& 0xFF00FF00#32 = 0x02000000#32 ∧ ready.Inv ∧ ready.tstate = .ready ∧ 0x01#8 ≠ 0#8 ∧
    0xFF#8 ≠ 0#8 := ⟨by decide, ready_inv, by decide⟩

theorem witness_MulIsReferenceProduct : ready.Inv ∧ ready.tstate = .ready := ⟨ready_inv, rfl⟩

theorem witness_PrimGivesThePrimitiveElement :
    0x07000000#32 &&& 0xFFFFFFFF#32 = 0x07000000#32 ∧ ready.Inv ∧ ready.tstate = .ready ∧
    { ready with tstate := .cfgFail }.tstate = .cfgFail := ⟨by decide, ready_inv, rfl, rfl⟩

theorem witness_PowByTables :
    0x04FFFFFF#32 &&& 0xFF000000#32 = 0x04000000#32 ∧ ready.Inv ∧ ready.tstate = .ready ∧ 0xFF#8 ≠ 0#8 ∧
    0xFFFF#16 ≠ 0#16 ∧ (0xFFFF#16).toNat % 255 = 0 := ⟨by decide, ready_inv, by decide⟩

theorem witness_InvByTables :
    0x03FF0000#32 &&& 0xFF00FFFF#32 = 0x03000000#32 ∧ ready.Inv ∧ ready.tstate = .ready ∧ 0x01#8 ≠ 0#8 :=
  ⟨by decide, ready_inv, by decide⟩

theorem witness_ExpReadsTheAntilog :
    0x0500FFFF#32 &&& 0xFFFF0000#32 = 0x05000000#32 ∧ ready.Inv ∧ ready.tstate = .ready := ⟨by decide, ready_inv, rfl⟩

theorem witness_LogReadsTheLog :
    0x06FF0000#32 &&& 0xFF00FFFF#32 = 0x06000000#32 ∧ ready.Inv ∧ ready.tstate = .ready ∧ 0xFF#8 ≠ 0#8 :=
  ⟨by decide, ready_inv, by decide⟩

/-- Both cases of the check occur: this hardware's values pass, PRIM = 0x01 fails (V-T1, V-T2). -/
theorem witness_BuildWalksThePowers :
    ((∀ i, i < 255 → (fun x => clmulMod 0x11D#9 x 0x02#8)^[i] 1#8 ≠ 0#8) ∧
      (∀ i j, i < j → j < 255 →
        (fun x => clmulMod 0x11D#9 x 0x02#8)^[i] 1#8 ≠ (fun x => clmulMod 0x11D#9 x 0x02#8)^[j] 1#8)) ∧
    ¬((∀ i, i < 255 → (fun x => clmulMod 0x11D#9 x 0x01#8)^[i] 1#8 ≠ 0#8) ∧
      (∀ i j, i < j → j < 255 →
        (fun x => clmulMod 0x11D#9 x 0x01#8)^[i] 1#8 ≠ (fun x => clmulMod 0x11D#9 x 0x01#8)^[j] 1#8)) := by
  rw [← checkTable_candidate_iff, ← checkTable_candidate_iff]
  exact ⟨checkTable_hardware, by rw [Bool.not_eq_true]; decide +kernel⟩

theorem witness_TablesAreInverse : ready.Inv ∧ ready.tstate = .ready ∧ 0xFF#8 ≠ 0#8 := ⟨ready_inv, by decide⟩

theorem witness_FieldLaws :
    ready.Inv ∧ ready.tstate = .ready ∧ 0xFF#8 ≠ 0#8 ∧ ready.gfMul 0#8 0x9A#8 = 0#8 := ⟨ready_inv, by decide⟩

/-- PLEN = 256 with QLEN = 1, the largest product (R101). -/
theorem witness_PmulIsTheConvolution :
    0x08000000#32 &&& 0xFFFFFFFF#32 = 0x08000000#32 ∧
    (1 ≤ { ready with plen := 256#9, qlen := 1#9 }.plen.toNat ∧
      { ready with plen := 256#9, qlen := 1#9 }.plen.toNat ≤ 256 ∧
      1 ≤ { ready with plen := 256#9, qlen := 1#9 }.qlen.toNat ∧
      { ready with plen := 256#9, qlen := 1#9 }.plen.toNat + { ready with plen := 256#9, qlen := 1#9 }.qlen.toNat - 1 ≤
        256) ∧
    (loaded [5, 0, 7] [1]).pbuf.read 2 = some 7#8 ∧ (loaded [5, 0, 7] [1]).qbuf.read 0 = some 1#8 := by decide

/-- V-P9 to V-P12: lengths 0, 257 and 300, and a sum of 257. -/
theorem witness_PmulLengthErrors :
    { ready with qlen := 2#9 }.plen.toNat = 0 ∧ 256 < { ready with plen := 2#9, qlen := 257#9 }.qlen.toNat ∧
    (256 < { ready with plen := 128#9, qlen := 130#9 }.plen.toNat +
      { ready with plen := 128#9, qlen := 130#9 }.qlen.toNat - 1) := by decide

theorem witness_PmonoLoadsTheRootFactor : 0x09FF0000#32 &&& 0xFF00FFFF#32 = 0x09000000#32 ∧ 2 ≤ 255 := by decide

theorem witness_PevalIsHorner :
    0x0AFF0000#32 &&& 0xFF00FFFF#32 = 0x0A000000#32 ∧ ready.plen.toNat = 0 ∧
    256 < { ready with plen := 257#9 }.plen.toNat ∧
    (1 ≤ { ready with plen := 256#9 }.plen.toNat ∧ { ready with plen := 256#9 }.plen.toNat ≤ 256) ∧
    (loaded [5] []).pbuf.read 0 = some 5#8 := by decide

theorem witness_PevalIsThePowerSum :
    (loaded [5, 0, 7] [1]).Inv ∧ (loaded [5, 0, 7] [1]).tstate = .ready ∧ 1 ≤ (loaded [5, 0, 7] [1]).plen.toNat ∧
    (loaded [5, 0, 7] [1]).plen.toNat ≤ 256 := ⟨loaded_inv, by decide⟩

theorem witness_PmoveCopiesTheProduct :
    0x0B000000#32 &&& 0xFFFFFFFF#32 = 0x0B000000#32 ∧ ready.rlen.toNat = 0 ∧
    256 < { ready with rlen := 257#9 }.rlen.toNat ∧
    (1 ≤ { ready with rlen := 256#9 }.rlen.toNat ∧ { ready with rlen := 256#9 }.rlen.toNat ≤ 256) ∧
    { ready with rlen := 1#9, rbuf := [(0, 9#8)] }.rbuf.read 0 = some 9#8 ∧
    ({ ready with rlen := 1#9, rbuf := [(0, 9#8)] }.Inv ∧
      { ready with rlen := 1#9, rbuf := [(0, 9#8)] }.rlen.toNat ≠ 0) :=
  ⟨by decide, by decide, by decide, by decide, by decide, State.inv_of_check (by decide +kernel), by decide⟩

theorem witness_ProductNeutralAndTop :
    (loaded [5, 0, 7] [1]).Inv ∧ (loaded [5, 0, 7] [1]).tstate = .ready ∧
    goesOn (exec .pmul (loaded [5, 0, 7] [1])) = true ∧ 1 ≤ (loaded [5, 0, 7] [1]).plen.toNat ∧
    1 ≤ (loaded [5, 0, 7] [1]).qlen.toNat ∧
    (loaded [5, 0, 7] [1]).plen.toNat + (loaded [5, 0, 7] [1]).qlen.toNat - 1 ≤ 256 ∧
    (loaded [5, 0, 7] [1]).qlen = 1#9 ∧ (loaded [5, 0, 7] [1]).qbuf.read 0 = some 1#8 ∧
    (loaded [5, 0, 7] [1]).cell .p 2 ≠ 0#8 ∧ (loaded [5, 0, 7] [1]).cell .q 0 ≠ 0#8 := ⟨loaded_inv, by decide⟩

theorem witness_ProductIsCommutative :
    (loaded [5, 0, 7] [1]).Inv ∧ (loaded [5, 0, 7] [1]).tstate = .ready ∧
    (∀ i, i < (loaded [5, 0, 7] [1]).plen.toNat → (((loaded [5, 0, 7] [1]).pbuf.read i).isSome = true)) ∧
    (∀ i, i < (loaded [5, 0, 7] [1]).qlen.toNat → (((loaded [5, 0, 7] [1]).qbuf.read i).isSome = true)) ∧
    goesOn (exec .pmul (loaded [5, 0, 7] [1])) = true := ⟨loaded_inv, by decide⟩

theorem witness_EvaluationOfAProduct :
    (loaded [5, 0, 7] [1]).Inv ∧ (loaded [5, 0, 7] [1]).tstate = .ready ∧ 1 ≤ (loaded [5, 0, 7] [1]).plen.toNat ∧
    (loaded [5, 0, 7] [1]).plen.toNat ≤ 256 ∧ 1 ≤ (loaded [5, 0, 7] [1]).qlen.toNat ∧
    (loaded [5, 0, 7] [1]).plen.toNat + (loaded [5, 0, 7] [1]).qlen.toNat - 1 ≤ 256 := ⟨loaded_inv, by decide⟩

/-- Both outcomes, a failing and a successful command. -/
theorem witness_FailingCommandWritesOnlyTheRecord :
    goesOn (exec (.inv 0#8) ready) = true ∧ (after (exec (.inv 0#8) ready)).err = true ∧
    goesOn (exec (.inv 1#8) ready) = true ∧ (after (exec (.inv 1#8) ready)).err = false := by decide

/-- One command of each clause. -/
theorem witness_CommandFrames :
    goesOn (exec (.add 1#8 2#8) ready) = true ∧ goesOn (exec .pmul (loaded [5, 0, 7] [1])) = true ∧
    goesOn (exec (.pmono 1#8) ready) = true ∧ goesOn (exec .pmove ready) = true := by decide

theorem witness_TablesChangeOnlyByBuildOrReset :
    goesOn (step ready) = true ∧ ready.inReset = false ∧ ready.tstate ≠ .init ∧
    (after (step State.reset)).tstate ≠ State.reset.tstate := by decide +kernel

theorem witness_ResultsChangeOnlyByCompletion :
    (after (step (pending 0x07000000#32))).result ≠ (pending 0x07000000#32).result ∧
    (after (step ((loaded [5] [1]).accept 0x08000000#32))).rbuf ≠ ((loaded [5] [1]).accept 0x08000000#32).rbuf ∧
    (pending 0x07000000#32).inReset = false := by decide

theorem witness_ErrorIsSticky :
    (asked (ready.recordError .divZero) (hostW 0x008 8#32)).err = true ∧
    (after (step (asked (ready.recordError .divZero) (hostW 0x008 8#32)))).err = false := by decide

theorem witness_BusyFallsOnlyAtCompletion :
    (pending 0x07000000#32).busy = true ∧ (after (step (pending 0x07000000#32))).busy = false ∧
    goesOn (step (pending 0x07000000#32)) = true := by decide

end Sys2Proof.Tests
end

section
/-! PROOFS. The state and its steps (spec/10_state.md): which CORE step is enabled and that it is taken, what a command,
a host transaction and a step leave unchanged, and the values right after reset. -/

namespace Sys2Proof

/-! A legal word decodes (spec/30_encoding.md R62, R66). -/

/-- Masking a word to one field leaves that field, in its place. -/
theorem and_fieldMask (v : Word) (lo w : Nat) :
    v &&& (BitVec.allOnes w).setWidth 32 <<< lo = (v.extractLsb' lo w).setWidth 32 <<< lo := by
  ext k hk
  by_cases hlo : k < lo
  · simp [hlo]
  · have hadd : lo + (k - lo) = k := by omega
    simp [hlo, hadd, BitVec.getLsbD_eq_getElem hk, Bool.and_comm]

/-- A row whose mask is RSV, OP and one unused field is matched by the word whose RSV and unused field are zero and
whose OP is the row's. -/
theorem Op.matches_of_fields {o : Op} {v : Word} {n : Nat} (lo w : Nat) (hrsv : rsvField v = 0#4)
    (hop : (opField v).toNat = n) (hunused : v.extractLsb' lo w = 0#w)
    (hpattern : o.pattern = (BitVec.ofNat 4 n).setWidth 32 <<< 24)
    (hmask : o.mask = (BitVec.allOnes 4).setWidth 32 <<< 28 ||| (BitVec.allOnes 4).setWidth 32 <<< 24 |||
      (BitVec.allOnes w).setWidth 32 <<< lo) : o.matches v = true := by
  have hfield : opField v = BitVec.ofNat 4 n := by rw [← hop, BitVec.ofNat_toNat, BitVec.setWidth_eq]
  rw [rsvField] at hrsv
  rw [opField] at hfield
  rw [Op.matches_iff, hmask, BitVec.and_or_distrib_left, BitVec.and_or_distrib_left, and_fieldMask, and_fieldMask,
    and_fieldMask, hrsv, hfield, hunused, hpattern]
  simp

/-- The case form of legality implies the match and mask form (R62). -/
theorem matches_of_legal {v : Word} (h : legal v = true) : ∃ o : Op, o.matches v = true := by
  unfold legal at h
  rw [Bool.and_eq_true, beq_iff_eq] at h
  obtain ⟨hrsv, h⟩ := h
  split at h
  case h_1 hop => exact ⟨.add, Op.matches_of_fields 8 8 hrsv hop (eq_of_beq h) rfl rfl⟩
  case h_2 hop => exact ⟨.mul, Op.matches_of_fields 8 8 hrsv hop (eq_of_beq h) rfl rfl⟩
  case h_3 hop => exact ⟨.inv, Op.matches_of_fields 0 16 hrsv hop (eq_of_beq h) rfl rfl⟩
  case h_4 hop => exact ⟨.log, Op.matches_of_fields 0 16 hrsv hop (eq_of_beq h) rfl rfl⟩
  case h_5 hop => exact ⟨.pmono, Op.matches_of_fields 0 16 hrsv hop (eq_of_beq h) rfl rfl⟩
  case h_6 hop => exact ⟨.peval, Op.matches_of_fields 0 16 hrsv hop (eq_of_beq h) rfl rfl⟩
  case h_7 hop => exact ⟨.pow, Op.matches_of_fields 0 0 hrsv hop (Subsingleton.elim _ _) rfl rfl⟩
  case h_8 hop => exact ⟨.exp, Op.matches_of_fields 16 8 hrsv hop (eq_of_beq h) rfl rfl⟩
  case h_9 hop => exact ⟨.prim, Op.matches_of_fields 0 24 hrsv hop (eq_of_beq h) rfl rfl⟩
  case h_10 hop => exact ⟨.pmul, Op.matches_of_fields 0 24 hrsv hop (eq_of_beq h) rfl rfl⟩
  case h_11 hop => exact ⟨.pmove, Op.matches_of_fields 0 24 hrsv hop (eq_of_beq h) rfl rfl⟩
  case h_12 => cases h

theorem decode_of_legal {v : Word} (h : legal v = true) : ∃ i, decode v = .ok i := by
  obtain ⟨o, ho⟩ := matches_of_legal h
  exact ⟨_, decode_of_matches ho⟩

/-- PMUL has one word only: it has no operand (R61). -/
theorem eq_of_decode_pmul {v : Word} (h : decode v = .ok .pmul) : v = 0x08000000#32 := by
  obtain ⟨o, ho, hi⟩ := matches_of_decode h
  have hpmul : o = .pmul := by
    cases o
    case pmul => rfl
    all_goals cases hi
  subst hpmul
  rw [Op.matches_iff] at ho
  calc v = v &&& BitVec.allOnes 32 := BitVec.and_allOnes.symm
    _ = 0x08000000#32 := ho

end Sys2Proof

namespace Sys2Proof.Machine

/-! Commands: completion and frame (spec/30_encoding.md R65; 10_state.md R26 to R29). -/

theorem exec_next (i : Instr) (s : State) : ∃ t, exec i s = .next t := by
  cases i with
  | add a b => exact ⟨_, rfl⟩
  | mul a b => exact ⟨_, rfl⟩
  | pow a e => exact ⟨_, rfl⟩
  | exp e => exact ⟨_, rfl⟩
  | prim => exact ⟨_, rfl⟩
  | pmono a => exact ⟨_, rfl⟩
  | inv a => simp only [exec, execInv]; split <;> exact ⟨_, rfl⟩
  | log a => simp only [exec, execLog]; split <;> exact ⟨_, rfl⟩
  | peval a => simp only [exec, execPeval]; split <;> exact ⟨_, rfl⟩
  | pmove => simp only [exec, execPmove]; split <;> exact ⟨_, rfl⟩
  | pmul => simp only [exec, execPmul]; split_ifs <;> exact ⟨_, rfl⟩

/-- The fields that no command writes. -/
structure CommandFrame (s t : State) : Prop where
  tstate : t.tstate = s.tstate
  expTab : t.expTab = s.expTab
  logTab : t.logTab = s.logTab
  busy : t.busy = s.busy
  pend : t.pend = s.pend
  inReset : t.inReset = s.inReset
  host : t.host = s.host
  sched : t.sched = s.sched
  reads : t.reads = s.reads
  stepNo : t.stepNo = s.stepNo

section
variable {i : Instr} {s t : State} (h : exec i s = .next t)
include h

theorem exec_frame : CommandFrame s t := by
  obtain ⟨c, rfl⟩ | ⟨-, v, rfl⟩ | ⟨-, vs, -, -, rfl⟩ | ⟨-, a, rfl⟩ | ⟨-, vs, -, -, rfl⟩ := exec_cases h <;>
    constructor <;> rfl

theorem exec_result_of_not_givesResult (hi : Instr.givesResult i = false) : t.result = s.result := by
  obtain ⟨c, rfl⟩ | ⟨hg, -⟩ | ⟨-, vs, -, -, rfl⟩ | ⟨-, a, rfl⟩ | ⟨-, vs, -, -, rfl⟩ := exec_cases h
  case inr.inl => rw [hi] at hg; cases hg
  all_goals rfl

theorem exec_rbuf_of_ne_pmul (hi : i ≠ .pmul) : t.rbuf = s.rbuf ∧ t.rlen = s.rlen := by
  obtain ⟨c, rfl⟩ | ⟨-, v, rfl⟩ | ⟨hp, -⟩ | ⟨-, a, rfl⟩ | ⟨-, vs, -, -, rfl⟩ := exec_cases h
  case inr.inr.inl => exact absurd hp hi
  all_goals exact ⟨rfl, rfl⟩

theorem exec_pbuf_of_ne_pmove (hi : i ≠ .pmove) : t.pbuf = s.pbuf ∧ t.plen = s.plen := by
  obtain ⟨c, rfl⟩ | ⟨-, v, rfl⟩ | ⟨-, vs, -, -, rfl⟩ | ⟨-, a, rfl⟩ | ⟨hp, -⟩ := exec_cases h
  case inr.inr.inr.inr => exact absurd hp hi
  all_goals exact ⟨rfl, rfl⟩

theorem exec_qbuf_of_ne_pmono (hi : ∀ a, i ≠ .pmono a) : t.qbuf = s.qbuf ∧ t.qlen = s.qlen := by
  obtain ⟨c, rfl⟩ | ⟨-, v, rfl⟩ | ⟨-, vs, -, -, rfl⟩ | ⟨⟨a, hp⟩, -⟩ | ⟨-, vs, -, -, rfl⟩ := exec_cases h
  case inr.inr.inr.inl => exact absurd hp (hi a)
  all_goals exact ⟨rfl, rfl⟩

theorem exec_err_of_err (he : s.err = true) : t.err = true := by
  obtain ⟨c, rfl⟩ | ⟨-, v, rfl⟩ | ⟨-, vs, -, -, rfl⟩ | ⟨-, a, rfl⟩ | ⟨-, vs, -, -, rfl⟩ := exec_cases h
  case inl => rfl
  all_goals exact he

end

theorem givesResult_eq_false_iff (i : Instr) :
    Instr.givesResult i = false ↔ i = .pmul ∨ i = .pmove ∨ ∃ a, i = .pmono a := by
  cases i <;> simp [Instr.givesResult]

/-- Settles O49: each clause is one frame lemma of exec. -/
theorem commandFrames : Obligations.CommandFrames := by
  unfold Obligations.CommandFrames
  intro i s t h
  obtain ⟨htstate, hexp, hlog, hbusy, hpend, hreset, hhost, hsched, hreads, hno⟩ := exec_frame h
  refine ⟨htstate, hexp, hlog, hbusy, hpend, hreset, hhost, hsched, hreads, hno, fun hi => ?_, fun hi => ?_,
    fun hi => ?_, fun hi => ?_⟩
  · exact exec_result_of_not_givesResult h ((givesResult_eq_false_iff i).2 hi)
  · obtain ⟨hbuf, hlen⟩ := exec_rbuf_of_ne_pmul h hi
    exact ⟨fun k => by rw [hbuf], hlen⟩
  · obtain ⟨hbuf, hlen⟩ := exec_pbuf_of_ne_pmove h hi
    exact ⟨fun k => by rw [hbuf], hlen⟩
  · obtain ⟨hbuf, hlen⟩ := exec_qbuf_of_ne_pmono h hi
    exact ⟨fun k => by rw [hbuf], hlen⟩

/-! Host transactions (spec/20_memory.md R39 to R46). -/

/-- The admitted accesses, and their offsets (R39, R41 to R43). -/
theorem admitAccess_eq_ok_iff (rel : Int) (w : Width) (off : Nat) :
    admitAccess rel w = .ok off ↔ 0 ≤ rel ∧ rel < 0x1000 ∧ rel % 4 = 0 ∧ w = .word ∧ rel = off := by
  unfold admitAccess
  split_ifs with hout hw hal
  · exact iff_of_false (fun h => by cases h) (by omega)
  · simp [hw]
  · simp [hal]
  · rw [Except.ok.injEq]
    exact ⟨fun h => ⟨by omega, by omega, by omega, by simpa using hw, by omega⟩, fun h => by omega⟩

theorem regAt_eq_status {off : Nat} (h : regAt off = .status) : off = 0x008 := by
  unfold regAt at h
  split_ifs at h
  split at h
  case h_3 => rfl
  all_goals cases h

@[simp] theorem State.unlessBusy_err (s t : State) : (s.unlessBusy t).err = (s.busy || t.err) := by
  unfold State.unlessBusy
  cases s.busy <;> rfl

theorem issue_err_of_err {s : State} (v : Word) (he : s.err = true) : (issue v s).err = true := by
  unfold issue
  split_ifs
  case neg => exact he
  all_goals rfl

/-- Only an acknowledgement takes ERR from 1 to 0 (R46; 60_exceptions.md R120). -/
theorem busWrite_clears_err {off : Nat} {v : Word} {s : State} (he : s.err = true)
    (hf : (busWrite off v s).err = false) :
    off = 0x008 ∧ v.getLsbD 3 = true ∧ busWrite off v s = s.clearError := by
  unfold busWrite at hf ⊢
  split at hf
  case h_1 hreg =>
    split at hf
    · rename_i hclear
      exact ⟨regAt_eq_status hreg, hclear, if_pos hclear⟩
    · rw [he] at hf; cases hf
  all_goals simp [he, issue_err_of_err] at hf

/-- The fields that no host transaction changes, and what it can do to BUSY and PEND: nothing, or accept a command. -/
structure HostFrame (s t : State) : Prop where
  tstate : t.tstate = s.tstate
  expTab : t.expTab = s.expTab
  logTab : t.logTab = s.logTab
  result : t.result = s.result
  rbuf : t.rbuf = s.rbuf
  rlen : t.rlen = s.rlen
  inReset : t.inReset = s.inReset
  sched : t.sched = s.sched
  command : (t.busy = s.busy ∧ t.pend = s.pend) ∨
    (s.tstate = .ready ∧ t.busy = true ∧ ∃ v, t.pend = some v ∧ legal v = true)

theorem busWrite_frame (off : Nat) (v : Word) (s : State) : HostFrame s (busWrite off v s) := by
  obtain h | ⟨c, h⟩ | h | ⟨hready, -, hlegal, h⟩ |
    ⟨-, ⟨n, h⟩ | ⟨n, h⟩ | ⟨i, b, -, h⟩ | ⟨i, b, -, h⟩⟩ := busWrite_cases off v s <;> rw [h]
  case inr.inr.inr.inl => exact ⟨rfl, rfl, rfl, rfl, rfl, rfl, rfl, rfl, .inr ⟨hready, rfl, v, rfl, hlegal⟩⟩
  all_goals exact ⟨rfl, rfl, rfl, rfl, rfl, rfl, rfl, rfl, .inl ⟨rfl, rfl⟩⟩

theorem busWrite_host (off : Nat) (v : Word) (s : State) : (busWrite off v s).host = s.host := by
  obtain h | ⟨c, h⟩ | h | ⟨-, -, -, h⟩ |
    ⟨-, ⟨n, h⟩ | ⟨n, h⟩ | ⟨i, b, -, h⟩ | ⟨i, b, -, h⟩⟩ := busWrite_cases off v s <;> rw [h] <;> rfl

/-- What the host's turn did: nothing, a read, or the write at the head of the host's list. -/
inductive HostCase (s t : State) : Prop where
  | pass (ht : t = s)
  | read (rest : List HostOp) (v : Word) (hrest : rest ⊆ s.host) (ht : t = (s.setHost rest).logRead v)
  | write (off : Nat) (v : Word) (rest : List HostOp) (hhost : s.host = .write off .word v :: rest)
      (ht : t = busWrite off v (s.setHost rest))

/-- `hostStep_next`, with the transaction that a write or a read came from. -/
theorem hostStep_cases {s t : State} (h : hostStep s = .next t) : HostCase s t := by
  unfold hostStep at h
  split at h
  case h_1 => injection h with h; exact .pass h.symm
  case h_2 op rest hhost =>
    have hrest : rest ⊆ s.host := by rw [hhost]; exact List.subset_cons_self op rest
    split at h
    · cases h
    split at h
    case h_1 =>
      split at h
      · cases h
      · injection h with h; exact .read rest _ hrest h.symm
    case h_2 _ rel w v =>
      split at h
      · cases h
      · rename_i off hoff
        obtain ⟨-, -, -, rfl, rfl⟩ := (admitAccess_eq_ok_iff rel w off).1 hoff
        injection h with h
        exact .write off v rest hhost h.symm
    case h_3 =>
      split at h <;> injection h with h
      · exact .read s.host _ (List.Subset.refl _) h.symm
      · exact .read rest _ hrest h.symm

theorem hostStep_frame {s t : State} (h : hostStep s = .next t) : HostFrame s t := by
  cases hostStep_cases h with
  | pass ht => subst ht; exact ⟨rfl, rfl, rfl, rfl, rfl, rfl, rfl, rfl, .inl ⟨rfl, rfl⟩⟩
  | read rest v _ ht => subst ht; exact ⟨rfl, rfl, rfl, rfl, rfl, rfl, rfl, rfl, .inl ⟨rfl, rfl⟩⟩
  | write off v rest _ ht =>
    subst ht
    obtain ⟨h1, h2, h3, h4, h5, h6, h7, h8, h9⟩ := busWrite_frame off v (s.setHost rest)
    exact ⟨h1, h2, h3, h4, h5, h6, h7, h8, h9⟩

theorem hostStep_host_subset {s t : State} (h : hostStep s = .next t) : t.host ⊆ s.host := by
  cases hostStep_cases h with
  | pass ht => rw [ht]; exact List.Subset.refl _
  | read rest v hrest ht => rw [ht]; exact hrest
  | write off v rest hhost ht =>
    rw [ht, busWrite_host, State.setHost_host, hhost]
    exact List.subset_cons_self _ _

/-- Where every transaction is admitted, the host's turn has a step. -/
theorem hostStep_next_of_served {s : State} (hs : s.Served) : ∃ t, hostStep s = .next t := by
  obtain ⟨hadm, hrun, -⟩ := hs
  unfold hostStep
  split
  case h_1 => exact ⟨_, rfl⟩
  case h_2 op rest hhost =>
    have hop : op.admitted = true := hadm op (by rw [hhost]; exact List.mem_cons_self)
    rw [if_neg (by simp [hrun])]
    have hok {rel : Int} {w : Width} (h : 0 ≤ rel ∧ rel < 0x1000 ∧ rel % 4 = 0 ∧ w = .word) :
        admitAccess rel w = .ok rel.toNat := by
      obtain ⟨hlo, hhi, hal, hw⟩ := h
      exact (admitAccess_eq_ok_iff rel w _).2 ⟨hlo, hhi, hal, hw, by omega⟩
    cases op with
    | read rel w => simp only [hok (of_decide_eq_true hop)]; exact ⟨_, rfl⟩
    | write rel w v => simp only [hok (of_decide_eq_true hop)]; exact ⟨_, rfl⟩
    | wait => dsimp only; split <;> exact ⟨_, rfl⟩

/-! Turns of CORE (10_state.md R18; 30_encoding.md R65). -/

theorem completeStep_of_exec {s t : State} {v : Word} {i : Instr} (hpend : s.pend = some v) (hdec : decode v = .ok i)
    (h : exec i s = .next t) : completeStep s = .next t.retire := by
  simp [completeStep, hpend, hdec, h]

/-- COMPLETE with a command pending: it answers a next state, with BUSY = 0 and PEND = none. -/
theorem completeStep_next_of_pend {s : State} {v : Word} {i : Instr} (hpend : s.pend = some v)
    (hdec : decode v = .ok i) :
    ∃ t, completeStep s = .next t ∧ t.busy = false ∧ t.pend = none ∧ t.tstate = s.tstate := by
  obtain ⟨u, hu⟩ := exec_next i s
  exact ⟨u.retire, completeStep_of_exec hpend hdec hu, rfl, rfl, (exec_frame hu).tstate⟩

theorem coreStep_of_init {s : State} (hr : s.inReset = false) (hi : s.tstate = .init) : coreStep s = .next (build s) := by
  simp [coreStep, hr, hi]

theorem coreStep_of_busy {s : State} (hr : s.inReset = false) (hi : s.tstate ≠ .init) (hb : s.busy = true) :
    coreStep s = completeStep s := by
  simp [coreStep, hr, hi, hb]

/-- While BUSY = 1 the pending word is a command (R17, R64). -/
theorem State.Inv.pend_decodes {s : State} (hs : s.Inv) (hb : s.busy = true) :
    ∃ v i, s.pend = some v ∧ decode v = .ok i := by
  have hsome : s.pend.isSome = true := by rw [← hs.busyPend, hb]
  obtain ⟨v, hv⟩ := Option.isSome_iff_exists.1 hsome
  obtain ⟨i, hi⟩ := decode_of_legal (hs.pendLegal v hv)
  exact ⟨v, i, hv, hi⟩

theorem State.Inv.not_init_of_busy {s : State} (hs : s.Inv) (hb : s.busy = true) : s.tstate ≠ .init := by
  rw [hs.busyReady hb]; decide

/-- Settles O9: BUSY = 1 excludes INIT, and the pending word is legal and so decodes. -/
theorem enabledCoreSteps : Obligations.EnabledCoreSteps := by
  unfold Obligations.EnabledCoreSteps
  intro s hs hr
  refine ⟨fun ⟨hi, hb⟩ => hs.not_init_of_busy hb hi, coreStep_of_init hr, fun hb => ?_, fun hi hb => ?_⟩
  · obtain ⟨v, i, hpend, hdec⟩ := hs.pend_decodes hb
    obtain ⟨t, ht, hbusy, hnone, -⟩ := completeStep_next_of_pend hpend hdec
    exact ⟨coreStep_of_busy hr (hs.not_init_of_busy hb) hb, t, ht, hbusy, hnone⟩
  · simp [coreStep, hr, hi, hb]

/-! An enabled CORE step is taken (10_state.md R19). -/

/-- CORE has a step to take, in an environment that asks only for steps that exist: INIT, or a command is pending. -/
structure State.CoreWaits (s : State) : Prop where
  served : s.Served
  enabled : s.tstate = .init ∨ s.busy = true
  pending : s.busy = true → s.tstate = .ready ∧ ∃ v i, s.pend = some v ∧ decode v = .ok i

theorem State.CoreWaits.of_inv {s : State} (hi : s.Inv) (hs : s.Served) (he : s.coreEnabled = true) : s.CoreWaits := by
  refine ⟨hs, ?_, fun hb => ⟨hi.busyReady hb, hi.pend_decodes hb⟩⟩
  simpa [State.coreEnabled, hs.running] using he

theorem State.CoreWaits.coreEnabled {s : State} (hw : s.CoreWaits) : s.coreEnabled = true := by
  simpa [State.coreEnabled, hw.served.running] using hw.enabled

/-- After BUILD, or after COMPLETE, no CORE step is enabled. -/
theorem State.CoreWaits.coreStep_disables {s : State} (hw : s.CoreWaits) :
    ∃ t, coreStep s = .next t ∧ t.coreEnabled = false := by
  have hr := hw.served.running
  by_cases hb : s.busy = true
  · obtain ⟨hready, v, i, hpend, hdec⟩ := hw.pending hb
    obtain ⟨t, ht, hbusy, -, htstate⟩ := completeStep_next_of_pend hpend hdec
    refine ⟨t, by rw [coreStep_of_busy hr (by simp [hready]) hb, ht], ?_⟩
    simp [State.coreEnabled, hbusy, htstate, hready]
  · have hi : s.tstate = .init := hw.enabled.resolve_right hb
    refine ⟨_, coreStep_of_init hr hi, ?_⟩
    simp [build_eq, State.coreEnabled, hb]

/-- The environment stays served when the host's list shrinks and reset stays low. -/
theorem State.Served.endTurn {s t : State} (hs : s.Served) (hhost : t.host ⊆ s.host) (hr : t.inReset = s.inReset)
    (hsched : t.sched = s.sched) : t.endTurn.Served := by
  obtain ⟨hadm, hrun, hsteady⟩ := hs
  refine ⟨fun op hop => hadm op (hhost hop), hr.trans hrun, fun h => hsteady ?_⟩
  rw [← hsched]
  exact List.mem_of_mem_tail h

theorem State.CoreWaits.endTurn_of_host {s t : State} (hw : s.CoreWaits) (h : hostStep s = .next t) :
    t.endTurn.CoreWaits := by
  have hf := hostStep_frame h
  refine ⟨hw.served.endTurn (hostStep_host_subset h) hf.inReset hf.sched, ?_, fun hb => ?_⟩
  · rw [State.endTurn_tstate, State.endTurn_busy, hf.tstate]
    obtain ⟨hbusy, -⟩ | ⟨-, hbusy, -⟩ := hf.command
    · rw [hbusy]; exact hw.enabled
    · exact .inr hbusy
  · rw [State.endTurn_tstate, State.endTurn_pend, hf.tstate]
    obtain ⟨hbusy, hpend⟩ | ⟨hready, -, v, hpend, hlegal⟩ := hf.command
    · rw [hpend]; exact hw.pending (hbusy ▸ hb)
    · obtain ⟨i, hi⟩ := decode_of_legal hlegal
      exact ⟨hready, v, i, hpend, hi⟩

/-- A turn that is not CORE's answers a next state in which CORE still waits, and uses up one turn of the schedule. -/
theorem State.CoreWaits.step_of_other_turn {s : State} (hw : s.CoreWaits) (hturn : s.nextTurn ≠ .core) :
    ∃ t, step s = .next t ∧ t.CoreWaits ∧ s.sched.length = t.sched.length + 1 := by
  have hlen : s.sched.length = s.sched.tail.length + 1 := by
    cases hl : s.sched with
    | nil => exact absurd (by simp [State.nextTurn, hl, hw.coreEnabled]) hturn
    | cons turn rest => rfl
  cases ht : s.nextTurn with
  | core => exact absurd ht hturn
  | host =>
    obtain ⟨u, hu⟩ := hostStep_next_of_served hw.served
    refine ⟨u.endTurn, step_of_takeTurn (by rw [ht]; exact hu), hw.endTurn_of_host hu, ?_⟩
    rw [hlen, State.endTurn_sched, (hostStep_frame hu).sched]
  | assertReset =>
    refine absurd ?_ hw.served.steady
    unfold State.nextTurn at ht
    split at ht
    · rename_i hl; rw [hl, ht]; exact List.mem_cons_self
    · split at ht <;> cases ht
  | deassertReset =>
    refine ⟨s.endTurn, step_of_takeTurn ?_, ⟨hw.served.endTurn (List.Subset.refl _) rfl rfl, hw.enabled, hw.pending⟩,
      hlen⟩
    rw [ht]
    simp [takeTurn, deassertStep, hw.served.running]

theorem reachIn_succ_of_step {s t : State} (n : Nat) (h : step s = .next t) : reachIn (n + 1) s = reachIn n t := by
  simp [reachIn, h]

/-- CORE moves at the latest when the schedule has ended. -/
theorem State.CoreWaits.reachIn_disabled {s : State} (hw : s.CoreWaits) :
    ∃ n t, 1 ≤ n ∧ n ≤ s.sched.length + 1 ∧ reachIn n s = some t ∧ t.coreEnabled = false := by
  by_cases hturn : s.nextTurn = .core
  · obtain ⟨t, ht, hoff⟩ := hw.coreStep_disables
    have hstep : step s = .next t.endTurn := step_of_takeTurn (by rw [hturn]; exact ht)
    exact ⟨1, t.endTurn, le_rfl, by omega, reachIn_succ_of_step 0 hstep, hoff⟩
  · obtain ⟨u, hu, hwu, hlen⟩ := hw.step_of_other_turn hturn
    obtain ⟨n, t, hpos, hle, hreach, hoff⟩ := hwu.reachIn_disabled
    exact ⟨n + 1, t, by omega, by omega, (reachIn_succ_of_step n hu).trans hreach, hoff⟩
termination_by s.sched.length
decreasing_by omega

/-- Settles O5, by induction on the schedule: a turn that is not CORE's keeps CORE waiting. -/
theorem enabledCoreStepIsTaken : Obligations.EnabledCoreStepIsTaken := by
  unfold Obligations.EnabledCoreStepIsTaken
  exact fun s hi hs he => (State.CoreWaits.of_inv hi hs he).reachIn_disabled

/-! What a step of the machine did (10_state.md R13). -/

/-- What a step did: a turn of the host, BUILD, COMPLETE, the end of a reset, or a turn that changed at most the level
of the reset input. -/
inductive StepCase (s t : State) : Prop where
  | host (u : State) (turn : s.nextTurn = .host) (hu : hostStep s = .next u) (ht : t = u.endTurn)
  | build (turn : s.nextTurn = .core) (hr : s.inReset = false) (hi : s.tstate = .init)
      (ht : t = (s.setTables builtExp builtLog).endTurn)
  | complete (v : Word) (i : Instr) (u : State) (turn : s.nextTurn = .core) (hr : s.inReset = false)
      (hi : s.tstate ≠ .init) (hb : s.busy = true) (hpend : s.pend = some v) (hdec : decode v = .ok i)
      (hu : exec i s = .next u) (ht : t = u.retire.endTurn)
  | restart (hr : s.inReset = true) (turn : s.nextTurn = .deassertReset) (ht : t = s.restart.endTurn)
  | level (b : Bool) (ht : t = (s.setInReset b).endTurn)

/-- Everything a step can do, agent by agent. -/
theorem step_cases {s t : State} (h : step s = .next t) : StepCase s t := by
  obtain ⟨u, hu, rfl⟩ := step_next h
  cases turn : s.nextTurn with
  | host => rw [turn] at hu; exact .host u turn hu rfl
  | core =>
    rw [turn] at hu
    obtain ⟨-, rfl⟩ | ⟨hr, hi, rfl⟩ | ⟨hr, hi, hb, hc⟩ := coreStep_next hu
    · exact .level u.inReset rfl
    · exact .build turn hr hi (by rw [build_eq])
    · obtain ⟨v, i, w, hpend, hdec, hw, rfl⟩ := completeStep_next hc
      exact .complete v i w turn hr hi hb hpend hdec hw rfl
  | assertReset =>
    rw [turn] at hu
    injection hu with hu
    exact .level true (by rw [hu])
  | deassertReset =>
    rw [turn] at hu
    injection hu with hu
    unfold deassertStep at hu
    split at hu <;> rename_i hr
    · exact .restart hr turn (by rw [hu])
    · exact .level s.inReset (by rw [← hu]; rfl)

/-- Settles O50: of the steps outside the end of a reset, BUILD alone writes TSTATE or a table, and it starts in INIT. -/
theorem tablesChangeOnlyByBuildOrReset : Obligations.TablesChangeOnlyByBuildOrReset := by
  unfold Obligations.TablesChangeOnlyByBuildOrReset
  intro s t h hreset
  have unchanged (ht : t.tstate = s.tstate) (hexp : t.expTab = s.expTab) (hlog : t.logTab = s.logTab) :
      (s.tstate ≠ .init → t.tstate = s.tstate ∧ t.expTab = s.expTab ∧ t.logTab = s.logTab) ∧
      (t.tstate ≠ s.tstate → s.tstate = .init ∧ s.nextTurn = .core ∧ s.inReset = false ∧ t.tstate = .ready) :=
    ⟨fun _ => ⟨ht, hexp, hlog⟩, fun hne => absurd ht hne⟩
  cases step_cases h with
  | host u _ hu ht =>
    have hf := hostStep_frame hu
    subst ht; exact unchanged hf.tstate hf.expTab hf.logTab
  | build turn hr hi ht => exact ⟨fun hne => absurd hi hne, fun _ => ⟨hi, turn, hr, by rw [ht]; rfl⟩⟩
  | complete v i u _ _ _ _ _ _ hu ht =>
    have hf := exec_frame hu
    subst ht; exact unchanged hf.tstate hf.expTab hf.logTab
  | restart hr turn _ => exact absurd ⟨hr, turn⟩ hreset
  | level b ht => subst ht; exact unchanged rfl rfl rfl

/-- Settles O51: outside the end of a reset, only COMPLETE writes RESULT, RBUF or RLEN, and which of them depends on the
pending command. -/
theorem resultsChangeOnlyByCompletion : Obligations.ResultsChangeOnlyByCompletion := by
  unfold Obligations.ResultsChangeOnlyByCompletion
  intro s t h hreset
  have unchanged {P Q : Prop} (hresult : t.result = s.result) (hbuf : t.rbuf = s.rbuf) (hlen : t.rlen = s.rlen) :
      (t.result ≠ s.result → P) ∧ (t.rbuf ≠ s.rbuf ∨ t.rlen ≠ s.rlen → Q) :=
    ⟨fun hne => absurd hresult hne, fun hne => hne.elim (absurd hbuf) (absurd hlen)⟩
  cases step_cases h with
  | host u _ hu ht =>
    have hf := hostStep_frame hu
    subst ht; exact unchanged hf.result hf.rbuf hf.rlen
  | build _ _ _ ht => subst ht; exact unchanged rfl rfl rfl
  | complete v i u turn _ _ hb hpend hdec hu ht =>
    rw [ht, State.endTurn_result, State.endTurn_rbuf, State.endTurn_rlen, State.retire_result, State.retire_rbuf,
      State.retire_rlen]
    refine ⟨fun hne => ⟨turn, hb, v, i, hpend, hdec, ?_⟩, fun hne => ⟨turn, hb, ?_⟩⟩
    · have hgives : ¬(i = .pmul ∨ i = .pmove ∨ ∃ a, i = .pmono a) := fun hi =>
        hne (exec_result_of_not_givesResult hu ((givesResult_eq_false_iff i).2 hi))
      simpa only [not_or, not_exists] using hgives
    · have hpmul : i = .pmul := by
        by_contra hi
        obtain ⟨hbuf, hlen⟩ := exec_rbuf_of_ne_pmul hu hi
        exact hne.elim (absurd hbuf) (absurd hlen)
      subst hpmul
      rw [hpend, eq_of_decode_pmul hdec]
  | restart hr turn _ => exact absurd ⟨hr, turn⟩ hreset
  | level b ht => subst ht; exact unchanged rfl rfl rfl

/-- A host turn that takes ERR from 1 to 0 is the acknowledgement. -/
theorem hostStep_clears_err {s t : State} (h : hostStep s = .next t) (he : s.err = true) (hf : t.err = false) :
    t.ecode = 0#4 ∧ ∃ v rest, v.getLsbD 3 = true ∧ s.host = .write 0x008 .word v :: rest := by
  cases hostStep_cases h with
  | pass ht => rw [ht, he] at hf; cases hf
  | read rest v _ ht => rw [ht, State.logRead_err, State.setHost_err, he] at hf; cases hf
  | write off v rest hhost ht =>
    rw [ht] at hf
    obtain ⟨rfl, hbit, hclear⟩ := busWrite_clears_err (s := s.setHost rest) he hf
    exact ⟨by rw [ht, hclear]; rfl, v, rest, hbit, hhost⟩

/-- Settles O52: every step but the acknowledgement and the end of a reset leaves ERR = 1 at 1. -/
theorem errorIsSticky : Obligations.ErrorIsSticky := by
  unfold Obligations.ErrorIsSticky
  intro s t h he hf
  cases step_cases h with
  | host u turn hu ht =>
    rw [ht] at hf ⊢
    have hack := hostStep_clears_err hu he hf
    exact .inr ⟨turn, hack⟩
  | build _ _ _ ht => rw [ht] at hf; exact absurd (he.symm.trans hf) (by decide)
  | complete v i u _ _ _ _ _ _ hu ht =>
    rw [ht] at hf
    exact absurd ((exec_err_of_err hu he).symm.trans hf) (by decide)
  | restart hr turn _ => exact .inl ⟨hr, turn⟩
  | level b ht => rw [ht] at hf; exact absurd (he.symm.trans hf) (by decide)

/-! Reads of the register window (10_state.md R20, R35; 20_memory.md R45). -/

/-- Entry i of a buffer stands at the buffer's offset plus 4i (R20). -/
theorem regAt_buffer {i : Nat} (hi : i < 256) :
    regAt (0x400 + 4 * i) = .pbuf i ∧ regAt (0x800 + 4 * i) = .qbuf i ∧ regAt (0xC00 + 4 * i) = .rbuf i := by
  unfold regAt
  refine ⟨?_, ?_, ?_⟩
  · rw [if_neg (by omega), if_neg (by omega), if_pos (by omega)]; congr 1; omega
  · rw [if_neg (by omega), if_neg (by omega), if_neg (by omega), if_pos (by omega)]; congr 1; omega
  · rw [if_neg (by omega), if_neg (by omega), if_neg (by omega), if_neg (by omega), if_pos (by omega)]; congr 1; omega

theorem busRead_of_not_busy {s : State} (off : Nat) (hb : s.busy = false) : busRead off s = s.regWord (regAt off) := by
  simp [busRead, hb]

theorem busRead_status (s : State) : busRead 0x008 s = s.status := by
  have hreg : regAt 0x008 = .status := rfl
  simp [busRead, hreg, Reg.hiddenWhileBusy, State.regWord]

/-- Settles O17: outside the BUSY window a read is the entry's cell, and a cell with no value is a free one. -/
theorem emptyEntryReadsFree : Obligations.EmptyEntryReadsFree := by
  unfold Obligations.EmptyEntryReadsFree
  intro s i hb hi
  obtain ⟨hp, hq, hr⟩ := regAt_buffer hi
  rw [busRead_of_not_busy _ hb, busRead_of_not_busy _ hb, busRead_of_not_busy _ hb, hp, hq, hr]
  have word {m : Store} (h : (s.mem m).read i = none) :
      (s.cell m i).setWidth 32 = (Config.freeCell s.stepNo m i).setWidth 32 := by rw [State.cell_of_none h]
  exact ⟨word (m := .p), word (m := .q), word (m := .r)⟩

/-- Settles O1: the constants by evaluation, and STATUS after BUILD from what BUILD does in each case of its check. -/
theorem resetValues : Obligations.ResetValues := by
  unfold Obligations.ResetValues
  refine ⟨rfl, rfl, rfl, rfl, rfl, rfl, rfl, rfl, rfl, rfl, fun _ => ⟨rfl, rfl, rfl⟩, rfl, rfl, rfl, ?_,
    fun poly prim hfail => ?_⟩
  · rw [build_eq, busRead_status]; rfl
  · rw [buildWith, if_neg (by simp [hfail]), busRead_status]; rfl

end Sys2Proof.Machine
end

section
/-! PROOFS. The host's register window (spec/20_memory.md): which accesses have a step, what an admitted read and an
admitted write do offset by offset, and what stays as it was while a command is pending. -/

namespace Sys2Proof.Machine

/-! The register map by range of offsets (10_state.md R20). -/

theorem regAt_reserved {off : Nat} (hlo : 0x020 ≤ off) (hhi : off < 0x400) : regAt off = .reserved := by
  unfold regAt
  rw [if_neg (by omega), if_pos hhi]

theorem regAt_pbuf {off : Nat} (hlo : 0x400 ≤ off) (hhi : off < 0x800) : regAt off = .pbuf ((off - 0x400) / 4) := by
  unfold regAt
  rw [if_neg (by omega), if_neg (by omega), if_pos hhi]

theorem regAt_qbuf {off : Nat} (hlo : 0x800 ≤ off) (hhi : off < 0xC00) : regAt off = .qbuf ((off - 0x800) / 4) := by
  unfold regAt
  rw [if_neg (by omega), if_neg (by omega), if_neg (by omega), if_pos hhi]

theorem regAt_rbuf {off : Nat} (hlo : 0xC00 ≤ off) (hhi : off < 0x1000) : regAt off = .rbuf ((off - 0xC00) / 4) := by
  unfold regAt
  rw [if_neg (by omega), if_neg (by omega), if_neg (by omega), if_neg (by omega), if_pos hhi]

/-- The offsets whose reads are hidden in the BUSY window (R32). -/
theorem regAt_hiddenWhileBusy {off : Nat}
    (h : off = 0x010 ∨ off = 0x014 ∨ off = 0x018 ∨ off = 0x01C ∨ (0x400 ≤ off ∧ off ≤ 0xFFC)) :
    (regAt off).hiddenWhileBusy = true := by
  obtain rfl | rfl | rfl | rfl | ⟨hlo, hhi⟩ := h
  case inr.inr.inr.inr =>
    obtain hp | ⟨hqlo, hqhi⟩ | hr : off < 0x800 ∨ (0x800 ≤ off ∧ off < 0xC00) ∨ 0xC00 ≤ off := by omega
    · rw [regAt_pbuf hlo hp]; rfl
    · rw [regAt_qbuf hqlo hqhi]; rfl
    · rw [regAt_rbuf hr (by omega)]; rfl
  all_goals rfl

/-! BusRead (20_memory.md R45). -/

theorem busRead_of_hidden {s : State} {off : Nat} (hb : s.busy = true) (hoff : (regAt off).hiddenWhileBusy = true) :
    busRead off s = Config.freeWord s.stepNo := by
  simp [busRead, hb, hoff]

theorem busRead_of_not_hidden (s : State) {off : Nat} (hoff : (regAt off).hiddenWhileBusy = false) :
    busRead off s = s.regWord (regAt off) := by
  simp [busRead, hoff]

/-- The value of a BusRead does not depend on the tables (R38). -/
theorem busRead_update_tables (off : Nat) (s : State) (e l : Memory) :
    busRead off { s with expTab := e, logTab := l } = busRead off s := by
  unfold busRead
  generalize regAt off = r
  cases r <;> rfl

/-- Outside the BUSY window a buffer entry that holds a value reads as that value, zero-extended. -/
theorem busRead_entry {s : State} {m : Store} {off i : Nat} {v : Byte} (hb : s.busy = false)
    (hoff : s.regWord (regAt off) = (s.cell m i).setWidth 32) (hv : (s.mem m).read i = some v) :
    busRead off s = v.setWidth 32 := by
  rw [busRead_of_not_busy off hb, hoff, State.cell_of_read hv]

/-- Settles O16: each offset's register, from the map, and then that register's word or the free word. -/
theorem busReadByOffset : Obligations.BusReadByOffset := by
  unfold Obligations.BusReadByOffset
  intro s
  refine ⟨busRead_of_not_hidden s rfl, busRead_of_not_hidden s rfl, busRead_status s, busRead_of_not_hidden s rfl,
    fun off hlo hhi => ?_, fun hb => ⟨busRead_of_not_busy _ hb, busRead_of_not_busy _ hb, busRead_of_not_busy _ hb,
    busRead_of_not_busy _ hb, fun i v hi => ?_⟩, fun hb off hoff => busRead_of_hidden hb (regAt_hiddenWhileBusy hoff)⟩
  · have hreg := regAt_reserved hlo hhi
    rw [busRead_of_not_hidden s (by rw [hreg]; rfl), hreg]
    rfl
  · obtain ⟨hp, hq, hr⟩ := regAt_buffer hi
    exact ⟨busRead_entry (m := .p) hb (by rw [hp]; rfl), busRead_entry (m := .q) hb (by rw [hq]; rfl),
      busRead_entry (m := .r) hb (by rw [hr]; rfl)⟩

/-! BusWrite (20_memory.md R46). -/

/-- The registers whose writes BUSY = 1 refuses (R46). -/
def Reg.refusedWhileBusy : Reg → Bool
  | .plen | .qlen | .pbuf _ | .qbuf _ => true
  | .cfg | .cap | .status | .cmd | .result | .rlen | .reserved | .rbuf _ => false

/-- The registers on which a write has no effect (R46). -/
def Reg.ignoresWrites : Reg → Bool
  | .cfg | .cap | .result | .rlen | .reserved | .rbuf _ => true
  | .status | .cmd | .plen | .qlen | .pbuf _ | .qbuf _ => false

theorem State.unlessBusy_of_busy {s : State} (t : State) (hb : s.busy = true) :
    s.unlessBusy t = s.recordError .busyWrite := if_pos hb

theorem State.unlessBusy_of_not_busy {s : State} (t : State) (hb : s.busy = false) : s.unlessBusy t = t :=
  if_neg (by simp [hb])

theorem busWrite_of_refused {s : State} {off : Nat} (v : Word) (hb : s.busy = true)
    (hoff : (regAt off).refusedWhileBusy = true) : busWrite off v s = s.recordError .busyWrite := by
  unfold busWrite
  split <;> rename_i hreg
  case h_3 | h_4 | h_5 | h_6 => exact State.unlessBusy_of_busy _ hb
  all_goals rw [hreg] at hoff; cases hoff

theorem busWrite_of_ignored {off : Nat} (v : Word) (s : State) (hoff : (regAt off).ignoresWrites = true) :
    busWrite off v s = s := by
  unfold busWrite
  split <;> rename_i hreg
  case h_1 | h_2 | h_3 | h_4 | h_5 | h_6 => rw [hreg] at hoff; cases hoff
  all_goals rfl

theorem busWrite_pbuf {s : State} {off i : Nat} (v : Word) (hb : s.busy = false) (hreg : regAt off = .pbuf i) :
    busWrite off v s = s.setPbuf (s.pbuf.write i (v.extractLsb' 0 8)) := by
  simp [busWrite, hreg, State.unlessBusy_of_not_busy _ hb]

theorem busWrite_qbuf {s : State} {off i : Nat} (v : Word) (hb : s.busy = false) (hreg : regAt off = .qbuf i) :
    busWrite off v s = s.setQbuf (s.qbuf.write i (v.extractLsb' 0 8)) := by
  simp [busWrite, hreg, State.unlessBusy_of_not_busy _ hb]

theorem regAt_refusedWhileBusy {off : Nat} (h : off = 0x014 ∨ off = 0x018 ∨ (0x400 ≤ off ∧ off < 0xC00)) :
    (regAt off).refusedWhileBusy = true := by
  obtain rfl | rfl | ⟨hlo, hhi⟩ := h
  · rfl
  · rfl
  · by_cases hp : off < 0x800
    · rw [regAt_pbuf hlo hp]; rfl
    · rw [regAt_qbuf (by omega) hhi]; rfl

theorem regAt_ignoresWrites {off : Nat} (hwin : off < 0x1000) (hal : off % 4 = 0)
    (h : off < 0x008 ∨ off = 0x010 ∨ (0x01C ≤ off ∧ off < 0x400) ∨ 0xC00 ≤ off) :
    (regAt off).ignoresWrites = true := by
  obtain rfl | rfl | rfl | rfl | ⟨hlo, hhi⟩ | hr :
      off = 0x000 ∨ off = 0x004 ∨ off = 0x010 ∨ off = 0x01C ∨ (0x020 ≤ off ∧ off < 0x400) ∨ 0xC00 ≤ off := by omega
  case inr.inr.inr.inr.inl => rw [regAt_reserved hlo hhi]; rfl
  case inr.inr.inr.inr.inr => rw [regAt_rbuf hr hwin]; rfl
  all_goals rfl

/-- Settles O18: each offset's register, from the map, and then what a write of that register does. -/
theorem busWriteByOffset : Obligations.BusWriteByOffset := by
  unfold Obligations.BusWriteByOffset
  intro s v
  refine ⟨fun hv => if_pos hv, fun hv => if_neg (by rw [clearsError, hv]; decide), rfl,
    fun hb => ⟨State.unlessBusy_of_not_busy _ hb, State.unlessBusy_of_not_busy _ hb, fun i hi => ?_⟩,
    fun hb off hoff => busWrite_of_refused v hb (regAt_refusedWhileBusy hoff),
    fun off hwin hal hoff => busWrite_of_ignored v s (regAt_ignoresWrites hwin hal hoff)⟩
  obtain ⟨hp, hq, -⟩ := regAt_buffer hi
  exact ⟨⟨_, busWrite_pbuf v hb hp, Memory.read_write_same _ _ _, fun j hj => Memory.read_write_other _ _ hj.symm⟩,
    ⟨_, busWrite_qbuf v hb hq, Memory.read_write_same _ _ _, fun j hj => Memory.read_write_other _ _ hj.symm⟩⟩

/-- BusWrite neither reads nor changes the host's transactions to come. -/
theorem busWrite_setHost (off : Nat) (v : Word) (s : State) (rest : List HostOp) :
    busWrite off v (s.setHost rest) = (busWrite off v s).setHost rest := by
  unfold busWrite issue State.unlessBusy
  rw [State.setHost_tstate, State.setHost_busy]
  split
  case h_1 | h_3 | h_4 | h_5 | h_6 => split <;> rfl
  case h_2 => split_ifs <;> rfl
  all_goals rfl

theorem busWrite_reads_stepNo (off : Nat) (v : Word) (s : State) :
    (busWrite off v s).reads = s.reads ∧ (busWrite off v s).stepNo = s.stepNo := by
  obtain h | ⟨c, h⟩ | h | ⟨-, -, -, h⟩ |
    ⟨-, ⟨n, h⟩ | ⟨n, h⟩ | ⟨i, b, -, h⟩ | ⟨i, b, -, h⟩⟩ := busWrite_cases off v s <;> rw [h] <;> exact ⟨rfl, rfl⟩

/-- While BUSY = 1 a write changes at most the error record (R46, R51). -/
theorem busWrite_of_busy {s : State} (off : Nat) (v : Word) (hb : s.busy = true) :
    busWrite off v s = s ∨ (∃ c, busWrite off v s = s.recordError c) ∨ busWrite off v s = s.clearError := by
  obtain h | h | h | ⟨-, hnot, -⟩ | ⟨hnot, -⟩ := busWrite_cases off v s
  · exact .inl h
  · exact .inr (.inl h)
  · exact .inr (.inr h)
  all_goals rw [hb] at hnot; cases hnot

/-! Which accesses have a step (20_memory.md R39 to R43). -/

theorem base_mod_window : Config.base % 0x1000 = 0 := by
  unfold Config.base
  omega

/-- The admitted accesses by bus address. -/
theorem admitAccess_relOf_eq_ok_iff (addr off : Nat) (w : Width) :
    admitAccess (relOf addr) w = .ok off ↔
      Config.base ≤ addr ∧ addr < Config.base + 0x1000 ∧ (addr - Config.base) % 4 = 0 ∧ w = .word ∧
        off = addr - Config.base := by
  rw [admitAccess_eq_ok_iff, relOf]
  constructor
  · rintro ⟨hlo, hhi, hal, hw, hoff⟩
    exact ⟨by omega, by omega, by omega, hw, by omega⟩
  · rintro ⟨hlo, hhi, hal, hw, hoff⟩
    exact ⟨by omega, by omega, by omega, hw, by omega⟩

/-- Settles O14: the admitted offsets are `admitAccess_relOf_eq_ok_iff`, and the window is checked first. -/
theorem windowAddresses : Obligations.WindowAddresses := by
  unfold Obligations.WindowAddresses
  refine ⟨base_mod_window, fun addr => ⟨fun ⟨off, h⟩ => ?_, fun ⟨hlo, hhi, hal⟩ => ?_⟩, fun addr off w h => ?_,
    fun addr w h => if_pos (by rw [relOf]; omega)⟩
  · obtain ⟨hlo, hhi, hal, -⟩ := (admitAccess_relOf_eq_ok_iff addr off .word).1 h
    exact ⟨hlo, hhi, hal⟩
  · exact ⟨_, (admitAccess_relOf_eq_ok_iff addr _ .word).2 ⟨hlo, hhi, hal, rfl, rfl⟩⟩
  · obtain ⟨-, -, -, hw, hoff⟩ := (admitAccess_relOf_eq_ok_iff addr off w).1 h
    exact ⟨hoff, hw⟩

theorem admitAccess_error_of_misaligned_or_subWord {rel : Int} {w : Width} (h : rel % 4 ≠ 0 ∨ w ≠ .word) :
    ∃ r, admitAccess rel w = .error r := by
  cases hadm : admitAccess rel w with
  | error r => exact ⟨r, rfl⟩
  | ok off =>
    obtain ⟨-, -, hal, hw, -⟩ := (admitAccess_eq_ok_iff rel w off).1 hadm
    exact h.elim (absurd hal) (absurd hw)

theorem admitAccess_of_aligned {off : Nat} (hwin : off < 0x1000) (hal : off % 4 = 0) :
    admitAccess off .word = .ok off :=
  (admitAccess_eq_ok_iff off .word off).2 ⟨by omega, by omega, by omega, rfl, rfl⟩

/-! The host's turn, by the transaction at the head of its list (10_state.md R13). -/

section
variable {s : State} {rel : Int} {w : Width} {v : Word} {rest : List HostOp} {off : Nat} (hr : s.inReset = false)
include hr

theorem hostStep_admitted_read (hhost : s.host = .read rel w :: rest) (hadm : admitAccess rel w = .ok off) :
    hostStep s = .next ((s.setHost rest).logRead (busRead off s)) := by
  simp [hostStep, hhost, hr, hadm]

theorem hostStep_admitted_write (hhost : s.host = .write rel w v :: rest) (hadm : admitAccess rel w = .ok off) :
    hostStep s = .next (busWrite off v (s.setHost rest)) := by
  simp [hostStep, hhost, hr, hadm]

theorem hostStep_refused {r : Refusal} (hhost : s.host = .read rel w :: rest ∨ s.host = .write rel w v :: rest)
    (hadm : admitAccess rel w = .error r) : hostStep s = .refused r := by
  obtain hhost | hhost := hhost <;> simp [hostStep, hhost, hr, hadm]

end

/-- A transaction that is no write only logs a value and shortens the host's list. -/
theorem hostStep_of_no_write {s t : State} {op : HostOp} {rest : List HostOp} (hhost : s.host = op :: rest)
    (hop : ∀ rel w v, op ≠ .write rel w v) (h : hostStep s = .next t) :
    ∃ rest' v, t = (s.setHost rest').logRead v := by
  simp only [hostStep, hhost] at h
  split at h
  · cases h
  cases op with
  | read rel w =>
    dsimp only at h
    split at h
    · cases h
    · injection h with h; exact ⟨rest, _, h.symm⟩
  | write rel w v => exact absurd rfl (hop rel w v)
  | wait =>
    dsimp only at h
    split at h <;> injection h with h
    · exact ⟨s.host, _, h.symm⟩
    · exact ⟨rest, _, h.symm⟩

/-- A step of the host's turn is the host's step, with the turn used up. -/
theorem step_of_host_turn {s t : State} (hturn : s.nextTurn = .host) (h : step s = .next t) :
    ∃ u, hostStep s = .next u ∧ t = u.endTurn := by
  obtain ⟨u, hu, ht⟩ := step_next h
  rw [hturn] at hu
  exact ⟨u, hu, ht⟩

theorem step_of_hostStep {s u : State} (hturn : s.nextTurn = .host) (h : hostStep s = .next u) :
    step s = .next u.endTurn :=
  step_of_takeTurn (by rw [hturn]; exact h)

theorem step_refused_of_hostStep {s : State} {r : Refusal} (hturn : s.nextTurn = .host)
    (h : hostStep s = .refused r) : step s = .refused r := by
  simp [step, turnStep, hturn, takeTurn, h]

/-- Settles O10: such a step logs the value read, and the rest of what it writes is not the block's. -/
theorem readsHaveNoSideEffect : Obligations.ReadsHaveNoSideEffect := by
  unfold Obligations.ReadsHaveNoSideEffect
  intro s t op rest hturn hhost hop h
  obtain ⟨u, hu, rfl⟩ := step_of_host_turn hturn h
  obtain ⟨rest', v, rfl⟩ := hostStep_of_no_write hhost hop hu
  exact ⟨rfl, v, rfl⟩

/-- Settles O15: the access is not admitted, so the host's step is refused. -/
theorem misalignedOrSubWordHasNoStep : Obligations.MisalignedOrSubWordHasNoStep := by
  unfold Obligations.MisalignedOrSubWordHasNoStep
  intro s rel w v rest hturn hr hbad hhost
  obtain ⟨r, hadm⟩ := admitAccess_error_of_misaligned_or_subWord hbad
  exact ⟨r, step_refused_of_hostStep hturn (hostStep_refused hr hhost hadm)⟩

/-- Settles O11: an aligned offset of the window is admitted, and the read is the host's step. -/
theorem admittedReadStep : Obligations.AdmittedReadStep := by
  unfold Obligations.AdmittedReadStep
  intro s off rest hr hturn hwin hal hhost
  exact step_of_hostStep hturn (hostStep_admitted_read hr hhost (admitAccess_of_aligned hwin hal))

/-- Settles O12: the write is performed on the state without the transaction, which BusWrite does not see. -/
theorem admittedWriteStep : Obligations.AdmittedWriteStep := by
  unfold Obligations.AdmittedWriteStep
  intro s off v rest hr hturn hwin hal hhost
  have hstep := step_of_hostStep hturn (hostStep_admitted_write hr hhost (admitAccess_of_aligned hwin hal))
  rw [busWrite_setHost] at hstep
  obtain ⟨hreads, hno⟩ := busWrite_reads_stepNo off v s
  exact ⟨_, hstep, rfl, rfl, congrArg List.tail (busWrite_frame off v s).sched, hreads, congrArg (· + 1) hno⟩

/-- Settles O20: BusRead sees no table, and the host's turn writes none. -/
theorem tablesHaveNoHostAddress : Obligations.TablesHaveNoHostAddress := by
  unfold Obligations.TablesHaveNoHostAddress
  refine ⟨fun s off e l => busRead_update_tables off s e l, fun s t hturn h => ?_⟩
  obtain ⟨u, hu, rfl⟩ := step_of_host_turn hturn h
  have hf := hostStep_frame hu
  exact ⟨hf.expTab, hf.logTab⟩

/-! While a command is pending (20_memory.md R51, R52). -/

/-- What the host could write, but not while BUSY = 1. -/
structure PendingFrame (s t : State) : Prop where
  plen : t.plen = s.plen
  qlen : t.qlen = s.qlen
  pbuf : t.pbuf = s.pbuf
  qbuf : t.qbuf = s.qbuf
  busy : t.busy = s.busy
  pend : t.pend = s.pend

theorem hostStep_pendingFrame {s t : State} (hb : s.busy = true) (h : hostStep s = .next t) : PendingFrame s t := by
  cases hostStep_cases h with
  | pass ht => subst ht; exact ⟨rfl, rfl, rfl, rfl, rfl, rfl⟩
  | read rest v _ ht => subst ht; exact ⟨rfl, rfl, rfl, rfl, rfl, rfl⟩
  | write off v rest _ ht =>
    subst ht
    obtain hw | ⟨c, hw⟩ | hw := busWrite_of_busy (s := s.setHost rest) off v hb <;> rw [hw] <;>
      exact ⟨rfl, rfl, rfl, rfl, rfl, rfl⟩

/-- Settles O21: what no host transaction changes, and what none changes while BUSY = 1. -/
theorem pendingOperandsAreStable : Obligations.PendingOperandsAreStable := by
  unfold Obligations.PendingOperandsAreStable
  intro s t hturn hb h
  obtain ⟨u, hu, rfl⟩ := step_of_host_turn hturn h
  have hf := hostStep_frame hu
  obtain ⟨hplen, hqlen, hpbuf, hqbuf, hbusy, hpend⟩ := hostStep_pendingFrame hb hu
  exact ⟨hplen, hqlen, hf.rlen, hpbuf, hqbuf, hf.rbuf, hf.expTab, hf.logTab, hf.result, hbusy.trans hb, hpend⟩

/-- Settles O53: of the steps outside the end of a reset, COMPLETE alone takes BUSY from 1 to 0. -/
theorem busyFallsOnlyAtCompletion : Obligations.BusyFallsOnlyAtCompletion := by
  unfold Obligations.BusyFallsOnlyAtCompletion
  intro s t h hb hf
  have stays (hbusy : t.busy = s.busy) : False := by rw [hbusy, hb] at hf; cases hf
  cases step_cases h with
  | host u _ hu ht => exact (stays (by rw [ht]; exact (hostStep_pendingFrame hb hu).busy)).elim
  | build _ _ _ ht => exact (stays (by rw [ht]; rfl)).elim
  | complete v i u turn hr hi _ hpend hdec hu ht => exact .inr ⟨turn, hr, hi, v, i, u, hpend, hdec, hu, ht⟩
  | restart hr turn _ => exact .inl ⟨hr, turn⟩
  | level b ht => exact (stays (by rw [ht]; rfl)).elim

end Sys2Proof.Machine
end

section
/-! PROOFS. The command word (spec/30_encoding.md): the decoder and the encoder, the assembler, the pending command's
step, issue and WAIT, and what a command does to the error record. -/

namespace Sys2Proof

/-! The fields of a word, and what a row says of them (spec/30_encoding.md R58, R62). -/

/-- A word is its four fields, RSV, OP, A and E from bit 31 down (R58). -/
theorem word_toNat (v : Word) :
    v.toNat = (rsvField v).toNat * 2 ^ 28 + (opField v).toNat * 2 ^ 24 + (aField v).toNat * 2 ^ 16 +
      (eField v).toNat := by
  have hv := v.isLt
  simp only [rsvField, opField, aField, eField, BitVec.extractLsb'_toNat, Nat.shiftRight_eq_div_pow]
  omega

/-- Two words with the same fields are equal. -/
theorem word_ext {v w : Word} (hrsv : rsvField v = rsvField w) (hop : opField v = opField w)
    (ha : aField v = aField w) (he : eField v = eField w) : v = w := by
  apply BitVec.eq_of_toNat_eq
  rw [word_toNat, word_toNat w, hrsv, hop, ha, he]

/-- A field that the row's mask covers is the pattern's. -/
theorem Op.field_of_matches {o : Op} {v : Word} (h : o.matches v = true) (lo w : Nat)
    (hmask : o.mask.extractLsb' lo w = BitVec.allOnes w) : v.extractLsb' lo w = o.pattern.extractLsb' lo w := by
  rw [Op.matches_iff] at h
  rw [← h, BitVec.extractLsb'_and, hmask, BitVec.and_allOnes]

theorem Op.rsvField_of_matches {o : Op} {v : Word} (h : o.matches v = true) : rsvField v = 0#4 :=
  (Op.field_of_matches h 28 4 (by cases o <;> rfl)).trans (by cases o <;> rfl)

theorem Op.opField_of_matches {o : Op} {v : Word} (h : o.matches v = true) : opField v = opField o.pattern :=
  Op.field_of_matches h 24 4 (by cases o <;> rfl)

/-- The two bytes of the exponent form of B (R60). -/
theorem bHighField_append_b8Field (v : Word) : bHighField v ++ b8Field v = eField v :=
  BitVec.extractLsb'_append_extractLsb'_eq_extractLsb' rfl

/-! A command's word (R61, R68). -/

/-- What a command has in field A of its word (R61); 0 if it has no element operand there. -/
def Instr.aOperand : Instr → Byte
  | .add a _ | .mul a _ | .inv a | .pow a _ | .log a | .pmono a | .peval a => a
  | .exp _ | .prim | .pmul | .pmove => 0#8

/-- What a command has in field B of its word (R60, R61): the element form has a zero upper byte. -/
def Instr.bOperand : Instr → BitVec 16
  | .add _ b | .mul _ b => 0#8 ++ b
  | .pow _ e | .exp e => e
  | .inv _ | .log _ | .prim | .pmul | .pmono _ | .peval _ | .pmove => 0#16

/-- Every formula of R68 is opcode, A and B, each in its place. -/
theorem encode_eq_or (i : Instr) :
    encode i = (Laws.EncodeFields.opcode i).setWidth 32 <<< 24 ||| i.aOperand.setWidth 32 <<< 16 |||
      i.bOperand.setWidth 32 := by
  have element (b : Byte) : BitVec.setWidth 32 (0#8 ++ b) = b.setWidth 32 := by
    rw [BitVec.setWidth_append_eq_shiftLeft_setWidth_or]
    simp
  cases i with
  | add a b | mul a b => rw [Instr.bOperand, element b]; simp [encode, Laws.EncodeFields.opcode, Instr.aOperand]
  | _ => simp [encode, Laws.EncodeFields.opcode, Instr.aOperand, Instr.bOperand]

/-- RSV and OP of any command's word. -/
theorem encode_top (i : Instr) : Laws.EncodeFields.Statement i := by
  cases i with
  | add a b => exact Laws.EncodeFields.add a b
  | mul a b => exact Laws.EncodeFields.mul a b
  | inv a => exact Laws.EncodeFields.inv a
  | pow a e => exact Laws.EncodeFields.pow a e
  | exp e => exact Laws.EncodeFields.exp e
  | log a => exact Laws.EncodeFields.log a
  | prim => exact Laws.EncodeFields.prim
  | pmul => exact Laws.EncodeFields.pmul
  | pmono a => exact Laws.EncodeFields.pmono a
  | peval a => exact Laws.EncodeFields.peval a
  | pmove => exact Laws.EncodeFields.pmove

theorem aField_encode (i : Instr) : aField (encode i) = i.aOperand := by
  rw [encode_eq_or]
  ext k hk
  have hlt : 16 + k < 32 ∧ k < 32 ∧ 16 + k < 24 := by omega
  simp [aField, hlt, BitVec.getLsbD_eq_getElem hk]

theorem eField_encode (i : Instr) : eField (encode i) = i.bOperand := by
  rw [encode_eq_or]
  ext k hk
  have hlt : k < 32 ∧ k < 24 := by omega
  simp [eField, hk, hlt]

/-- The two bytes of B in a command's word. -/
theorem bBytes_encode {i : Instr} {x b : Byte} (h : i.bOperand = x ++ b) :
    bHighField (encode i) = x ∧ b8Field (encode i) = b := by
  have heq : bHighField (encode i) ++ b8Field (encode i) = x ++ b :=
    (bHighField_append_b8Field (encode i)).trans ((eField_encode i).trans h)
  have hhigh := congrArg (BitVec.extractLsb' 8 8) heq
  have hlow := congrArg (BitVec.setWidth 8) heq
  rw [BitVec.extractLsb'_append_eq_left, BitVec.extractLsb'_append_eq_left] at hhigh
  rw [BitVec.setWidth_append_eq_right, BitVec.setWidth_append_eq_right] at hlow
  exact ⟨hhigh, hlow⟩

/-! Encoding and decoding are each other's inverse (R66). -/

/-- A command's word matches the command's row, and its fields are the command's operands. -/
theorem matches_encode (i : Instr) : ∃ o : Op, o.matches (encode i) = true ∧ o.instr (encode i) = i := by
  obtain ⟨hrsv, hfield⟩ := encode_top i
  have hop := congrArg BitVec.toNat hfield
  have ha := aField_encode i
  have hb := eField_encode i
  cases i with
  | add a b =>
    obtain ⟨hhigh, hlow⟩ := bBytes_encode (i := .add a b) rfl
    exact ⟨.add, Op.matches_of_fields (n := 0x1) 8 8 hrsv hop hhigh rfl rfl, congrArg₂ Instr.add ha hlow⟩
  | mul a b =>
    obtain ⟨hhigh, hlow⟩ := bBytes_encode (i := .mul a b) rfl
    exact ⟨.mul, Op.matches_of_fields (n := 0x2) 8 8 hrsv hop hhigh rfl rfl, congrArg₂ Instr.mul ha hlow⟩
  | inv a => exact ⟨.inv, Op.matches_of_fields (n := 0x3) 0 16 hrsv hop hb rfl rfl, congrArg Instr.inv ha⟩
  | pow a e =>
    exact ⟨.pow, Op.matches_of_fields (n := 0x4) 0 0 hrsv hop (Subsingleton.elim _ _) rfl rfl,
      congrArg₂ Instr.pow ha hb⟩
  | exp e => exact ⟨.exp, Op.matches_of_fields (n := 0x5) 16 8 hrsv hop ha rfl rfl, congrArg Instr.exp hb⟩
  | log a => exact ⟨.log, Op.matches_of_fields (n := 0x6) 0 16 hrsv hop hb rfl rfl, congrArg Instr.log ha⟩
  | pmono a => exact ⟨.pmono, Op.matches_of_fields (n := 0x9) 0 16 hrsv hop hb rfl rfl, congrArg Instr.pmono ha⟩
  | peval a => exact ⟨.peval, Op.matches_of_fields (n := 0xA) 0 16 hrsv hop hb rfl rfl, congrArg Instr.peval ha⟩
  | prim => exact ⟨.prim, rfl, rfl⟩
  | pmul => exact ⟨.pmul, rfl, rfl⟩
  | pmove => exact ⟨.pmove, rfl, rfl⟩

/-- The match and mask form of legality implies the case form (R62). -/
theorem legal_of_matches {o : Op} {v : Word} (h : o.matches v = true) : legal v = true := by
  unfold legal
  rw [Op.rsvField_of_matches h, Op.opField_of_matches h]
  cases o with
  | add | mul => exact beq_iff_eq.2 (Op.field_of_matches h 8 8 rfl)
  | inv | log | pmono | peval => exact beq_iff_eq.2 (Op.field_of_matches h 0 16 rfl)
  | pow => rfl
  | exp => exact beq_iff_eq.2 (Op.field_of_matches h 16 8 rfl)
  | prim | pmul | pmove => exact beq_iff_eq.2 (Op.field_of_matches h 0 24 rfl)

/-- A word that matches a row is the word of the command it names: the row leaves no bit open but the operands'. -/
theorem encode_instr_of_matches {o : Op} {v : Word} (h : o.matches v = true) : encode (o.instr v) = v := by
  apply word_ext
  · rw [(encode_top _).1, Op.rsvField_of_matches h]
  · rw [(encode_top _).2, Op.opField_of_matches h]
    cases o <;> rfl
  · rw [aField_encode]
    cases o with
    | exp | prim | pmul | pmove => exact (Op.field_of_matches h 16 8 rfl).symm
    | _ => rfl
  · rw [eField_encode]
    cases o with
    | add | mul =>
      have hhigh : bHighField v = 0#8 := Op.field_of_matches h 8 8 rfl
      rw [← bHighField_append_b8Field, hhigh]
      rfl
    | pow | exp => rfl
    | _ => exact (Op.field_of_matches h 0 16 rfl).symm

theorem decode_encode (i : Instr) : decode (encode i) = .ok i := by
  obtain ⟨o, ho, hi⟩ := matches_encode i
  rw [decode_of_matches ho, hi]

theorem legal_encode (i : Instr) : legal (encode i) = true := by
  obtain ⟨o, ho, -⟩ := matches_encode i
  exact legal_of_matches ho

/-- Settles O24: a legal word matches a row and is the word of the command it names; decoding an encoding gives the
command back, so no other command has that word, and an illegal word is no command's. -/
theorem everyWordIsOneCommandOrIllegal : Obligations.EveryWordIsOneCommandOrIllegal := by
  unfold Obligations.EveryWordIsOneCommandOrIllegal
  intro v
  cases hlegal : legal v with
  | true =>
    obtain ⟨o, ho⟩ := matches_of_legal hlegal
    have hdec : decode v = .ok (o.instr v) := decode_of_matches ho
    refine .inl ⟨rfl, o.instr v, hdec, encode_instr_of_matches ho, fun j hj => ?_⟩
    have hdec' : decode v = .ok j := by rw [← hj, decode_encode]
    exact Except.ok.inj (hdec'.symm.trans hdec)
  | false =>
    have hcode (j : Instr) : encode j ≠ v := fun hj => by
      rw [← hj, legal_encode] at hlegal
      cases hlegal
    refine .inr ⟨rfl, ?_, hcode⟩
    cases hdec : decode v with
    | error e => exact ⟨e, rfl⟩
    | ok i =>
      obtain ⟨o, ho, -⟩ := matches_of_decode hdec
      exact absurd (encode_instr_of_matches ho) (hcode _)

/-- Settles O25: both directions of the agreement, and a row is determined by the word's top byte. -/
theorem legalIsMatchAndMask : Obligations.LegalIsMatchAndMask := by
  unfold Obligations.LegalIsMatchAndMask
  simp only [← Op.matches_iff]
  exact ⟨fun v => ⟨matches_of_legal, fun ⟨o, ho⟩ => legal_of_matches ho⟩, fun v o o' ho ho' =>
    Op.pattern_injective ((Op.top_of_matches ho).symm.trans (Op.top_of_matches ho'))⟩

/-- Settles O22: each of the eleven legal words is the encoding of its command; the illegal four are evaluated. -/
theorem tableWordsDecode : Obligations.TableWordsDecode := by
  unfold Obligations.TableWordsDecode
  exact ⟨decode_encode (.add 0x02#8 0x04#8), decode_encode (.mul 0x53#8 0xCA#8), decode_encode (.inv 0x53#8),
    decode_encode (.pow 0x07#8 300#16), decode_encode (.exp 65535#16), decode_encode (.log 0x8E#8), decode_encode .prim,
    decode_encode .pmul, decode_encode (.pmono 0x02#8), decode_encode (.peval 0x03#8), decode_encode .pmove,
    rfl, rfl, rfl, rfl⟩

/-- A command's word as a number (R68). -/
theorem encode_eq_ofNat (i : Instr) :
    encode i = BitVec.ofNat 32
      ((Laws.EncodeFields.opcode i).toNat * 2 ^ 24 + i.aOperand.toNat * 2 ^ 16 + i.bOperand.toNat) := by
  obtain ⟨hrsv, hop⟩ := encode_top i
  have hnat := word_toNat (encode i)
  rw [hrsv, hop, aField_encode, eField_encode, BitVec.toNat_ofNat, Nat.zero_mod, Nat.zero_mul, Nat.zero_add] at hnat
  rw [← hnat, BitVec.ofNat_toNat, BitVec.setWidth_eq]

end Sys2Proof

namespace Sys2Proof.Machine

/-! The assembler (30_encoding.md R68, R69). -/

theorem elementInRange_iff (a : Nat) : elementInRange a = true ↔ a ≤ 255 := by
  rw [elementInRange, nat_blt_eq, decide_eq_true_iff]
  omega

theorem exponentInRange_iff (e : Nat) : exponentInRange e = true ↔ e ≤ 65535 := by
  rw [exponentInRange, nat_blt_eq, decide_eq_true_iff]
  omega

/-- An operand out of range is rejected (R68). -/
theorem assemble_eq_none {c : Asm} (h : c.wellFormed = false) : assemble c = none := if_pos h

/-- The word that the assembler makes of a command it accepts, from the command's opcode and operands. -/
theorem assemble_word {c : Asm} {i : Instr} (k a b : Nat) (hi : assemble c = some i)
    (hk : (Laws.EncodeFields.opcode i).toNat = k) (ha : i.aOperand.toNat = a) (hb : i.bOperand.toNat = b) :
    (assemble c).map encode = some (BitVec.ofNat 32 (k * 2 ^ 24 + a * 2 ^ 16 + b)) := by
  rw [hi, Option.map_some, encode_eq_ofNat, hk, ha, hb]

/-- Settles O26: in range each word is its opcode and operands as a number, out of range the check rejects the line. -/
theorem assemblerWordsAndPseudoInstructions : Obligations.AssemblerWordsAndPseudoInstructions := by
  unfold Obligations.AssemblerWordsAndPseudoInstructions
  have element {a : Nat} (ha : a ≤ 255) : (BitVec.ofNat 8 a).toNat = a := Nat.mod_eq_of_lt (by omega)
  have low {b : Nat} (hb : b ≤ 255) : (0#8 ++ BitVec.ofNat 8 b).toNat = b := by
    rw [BitVec.toNat_append, element hb]
    simp
  have exponent {e : Nat} (he : e ≤ 65535) : (BitVec.ofNat 16 e).toNat = e := Nat.mod_eq_of_lt (by omega)
  refine ⟨fun a b ha hb => ?_, fun a e ha he => ?_, ⟨rfl, rfl, rfl⟩, fun a b h => ?_, fun a h => ?_, fun a e h => ?_,
    fun e h => ?_⟩
  · have one : ¬elementInRange a = false := by simp [(elementInRange_iff a).2 ha]
    have two : ¬(elementInRange a && elementInRange b) = false := by
      simp [(elementInRange_iff a).2 ha, (elementInRange_iff b).2 hb]
    refine ⟨assemble_word 0x1 a b (if_neg two) rfl (element ha) (low hb),
      assemble_word 0x2 a b (if_neg two) rfl (element ha) (low hb),
      assemble_word 0x3 a 0 (if_neg one) rfl (element ha) rfl,
      assemble_word 0x6 a 0 (if_neg one) rfl (element ha) rfl,
      assemble_word 0x9 a 0 (if_neg one) rfl (element ha) rfl,
      assemble_word 0xA a 0 (if_neg one) rfl (element ha) rfl, rfl, rfl, ?_⟩
    exact (if_neg one).trans (if_neg (by rwa [Asm.wellFormed, Bool.and_self])).symm
  · have one : ¬exponentInRange e = false := by simp [(exponentInRange_iff e).2 he]
    have two : ¬(elementInRange a && exponentInRange e) = false := by
      simp [(elementInRange_iff a).2 ha, (exponentInRange_iff e).2 he]
    exact ⟨assemble_word 0x4 a e (if_neg two) rfl (element ha) (exponent he),
      assemble_word 0x5 0 e (if_neg one) rfl rfl (exponent he), rfl⟩
  · have two : (elementInRange a && elementInRange b) = false := by
      rw [← Bool.not_eq_true, Bool.and_eq_true, elementInRange_iff, elementInRange_iff]
      omega
    exact ⟨assemble_eq_none two, assemble_eq_none two, assemble_eq_none two, assemble_eq_none two⟩
  · have one : elementInRange a = false := by
      rw [← Bool.not_eq_true, elementInRange_iff]
      omega
    exact ⟨assemble_eq_none one, assemble_eq_none one, assemble_eq_none one, assemble_eq_none one,
      assemble_eq_none one⟩
  · refine assemble_eq_none ?_
    rw [Asm.wellFormed, ← Bool.not_eq_true, Bool.and_eq_true, elementInRange_iff, exponentInRange_iff]
    omega
  · have one : exponentInRange e = false := by
      rw [← Bool.not_eq_true, exponentInRange_iff]
      omega
    exact ⟨assemble_eq_none one, assemble_eq_none one⟩

/-! The error record (30_encoding.md R65; 60_exceptions.md R114, R116). -/

/-- Exec's effect on the error record (R65): none, or one of the codes 4 to 7 recorded and nothing else changed. -/
def RecordsOrKeeps (s t : State) : Prop :=
  (t.err = s.err ∧ t.ecode = s.ecode) ∨
    ∃ c : ErrCode, 4 ≤ c.bits.toNat ∧ c.bits.toNat ≤ 7 ∧ t = s.recordError c

section
variable {s t u : State}

theorem RecordsOrKeeps.of_next (h : (Host.Outcome.next u : Host.Outcome State Fault Refusal) = .next t)
    (hu : u.err = s.err ∧ u.ecode = s.ecode) : RecordsOrKeeps s t := by
  injection h with h
  exact .inl (h ▸ hu)

/-- A check of a command: where it fails its code is recorded, else the rest of the command decides. -/
theorem RecordsOrKeeps.of_check {p : Prop} [Decidable p] {o : Host.Outcome State Fault Refusal} (c : ErrCode)
    (hc : 4 ≤ c.bits.toNat ∧ c.bits.toNat ≤ 7) (h : (if p then .next (s.recordError c) else o) = .next t)
    (ho : o = .next t → RecordsOrKeeps s t) : RecordsOrKeeps s t := by
  split at h
  · injection h with h
    exact .inr ⟨c, hc.1, hc.2, h.symm⟩
  · exact ho h

end

theorem exec_recordsOrKeeps {i : Instr} {s t : State} (h : exec i s = .next t) : RecordsOrKeeps s t := by
  cases i with
  | add | mul | pow | exp | prim | pmono => exact .of_next h ⟨rfl, rfl⟩
  | inv a => exact .of_check .divZero (by decide) h fun h => .of_next h ⟨rfl, rfl⟩
  | log a => exact .of_check .logZero (by decide) h fun h => .of_next h ⟨rfl, rfl⟩
  | peval a => exact .of_check .badLen (by decide) h fun h => .of_next h ⟨rfl, rfl⟩
  | pmove => exact .of_check .badLen (by decide) h fun h => .of_next h ⟨rfl, rfl⟩
  | pmul =>
    exact .of_check .badLen (by decide) h fun h => .of_check .badLen (by decide) h fun h =>
      .of_check .lenOverflow (by decide) h fun h => .of_next h ⟨rfl, rfl⟩

/-- Settles O47: what any command does to the error record. -/
theorem failingCommandWritesOnlyTheRecord : Obligations.FailingCommandWritesOnlyTheRecord := by
  unfold Obligations.FailingCommandWritesOnlyTheRecord
  intro i s t h
  exact (exec_recordsOrKeeps h).imp_right fun ⟨c, hlo, hhi, ht⟩ => ⟨c.bits, hlo, hhi, ht⟩

/-! The pending command and its step (30_encoding.md R65; log entry 11). -/

/-- CORE's turn with a legal command pending: its Exec, BUSY <- 0 and PEND <- none, and the turn used up (R65). -/
theorem step_of_pending {s t : State} {v : Word} {i : Instr} (hr : s.inReset = false) (hturn : s.nextTurn = .core)
    (hready : s.tstate = .ready) (hb : s.busy = true) (hpend : s.pend = some v) (hdec : decode v = .ok i)
    (h : exec i s = .next t) : step s = .next t.retire.endTurn := by
  apply step_of_takeTurn
  rw [hturn]
  calc coreStep s = completeStep s := coreStep_of_busy hr (by simp [hready]) hb
    _ = .next t.retire := completeStep_of_exec hpend hdec h

/-- Settles O7: CORE's turn completes the command; no Exec ends in a fault or a refusal. -/
theorem stepRunsThePendingCommand : Obligations.StepRunsThePendingCommand := by
  unfold Obligations.StepRunsThePendingCommand
  intro s v i hr hturn hready hb hpend hdec
  obtain ⟨u, hu⟩ := exec_next i s
  refine ⟨fun t h => step_of_pending hr hturn hready hb hpend hdec h, fun f h => ?_, fun r h => ?_⟩
  · rw [hu] at h; cases h
  · rw [hu] at h; cases h

/-- A word is its four byte lanes (20_memory.md R40). -/
theorem wordOfLanes_byteLane (v : Word) :
    wordOfLanes (byteLane v 0) (byteLane v 1) (byteLane v 2) (byteLane v 3) = v := by
  have h32 : byteLane v 3 ++ byteLane v 2 = v.extractLsb' 16 16 :=
    BitVec.extractLsb'_append_extractLsb'_eq_extractLsb' rfl
  have h321 : v.extractLsb' 16 16 ++ byteLane v 1 = v.extractLsb' 8 24 :=
    BitVec.extractLsb'_append_extractLsb'_eq_extractLsb' rfl
  have h3210 : v.extractLsb' 8 24 ++ byteLane v 0 = v.extractLsb' 0 32 :=
    BitVec.extractLsb'_append_extractLsb'_eq_extractLsb' rfl
  rw [wordOfLanes, h32, h321, h3210, BitVec.extractLsb'_eq_self]

/-- Laying the word out in lanes and reading it back changes nothing (log entry 17). -/
theorem decode_of_decodeTableWord {nbits w : Nat} {i : Instr} (h : decodeTableWord nbits w = some i) :
    decode (tableWord nbits w) = .ok i := by
  have hlanes (v : Word) : decodeBytes ((List.range 4).map (byteLane v)) = (decode v).map (fun i => (i, [])) := by
    change (decode (wordOfLanes _ _ _ _)).map _ = _
    rw [wordOfLanes_byteLane]
    rfl
  unfold decodeTableWord at h
  split at h
  · rw [hlanes] at h
    cases hdec : decode (tableWord nbits w) with
    | error e => rw [hdec] at h; cases h
    | ok j => rw [hdec] at h; rw [Option.some.inj h]
  · cases h

theorem State.withPending_tstate (s : State) (v : Word) : (s.withPending v).tstate = .ready := by
  unfold State.withPending
  split
  · assumption
  · rfl

/-- Settles O8: withFetchWord makes the word pending in READY, with CORE's turn next. -/
theorem fetchWordRunsNext : Obligations.FetchWordRunsNext := by
  unfold Obligations.FetchWordRunsNext
  intro s w i hdec
  obtain ⟨t, ht⟩ := exec_next i (s.withFetchWord 32 w)
  exact ⟨t, ht, step_of_pending rfl rfl (State.withPending_tstate s _) rfl rfl (decode_of_decodeTableWord hdec) ht⟩

/-! The host's WAIT and the issue of a command (30_encoding.md R64, R70). -/

/-- Bit 1 of STATUS is BUSY (10_state.md R23). -/
theorem statusBusy_status (s : State) : statusBusy s.status = s.busy := by
  calc statusBusy s.status
      = (0#24 ++ s.ecode ++ BitVec.ofBool s.err ++ BitVec.ofBool s.cfgfFlag ++ BitVec.ofBool s.busy).getLsbD 0 :=
        BitVec.getLsbD_append
    _ = s.busy := by rw [BitVec.getLsbD_append]; simp

/-- One poll: WAIT stays at the head of the host's list while BUSY = 1 (R70). -/
theorem hostStep_wait {s : State} {rest : List HostOp} (hr : s.inReset = false) (hhost : s.host = .wait :: rest) :
    hostStep s = .next ((s.setHost (if s.busy then .wait :: rest else rest)).logRead (busRead 0x008 s)) := by
  have hset : s.setHost (.wait :: rest) = s := by rw [← hhost]; rfl
  cases hb : s.busy <;> simp [hostStep, hhost, hr, busRead_status, statusBusy_status, hb, hset]

/-- Settles O13: the host's turn is one poll, and the bit it polls is BUSY. -/
theorem waitPollsBusy : Obligations.WaitPollsBusy := by
  unfold Obligations.WaitPollsBusy
  intro s rest hr hturn hhost
  exact ⟨_, step_of_hostStep hturn (hostStep_wait hr hhost), rfl, fun hb => if_pos hb,
    fun hb => if_neg (by simp [hb])⟩

/-- Settles O19: offset 0x00C is CMD, and each premise decides the checks of issue up to its own. -/
theorem issueChecksInOrder : Obligations.IssueChecksInOrder := by
  unfold Obligations.IssueChecksInOrder
  intro s v
  have hcmd : busWrite 0x00C v s = issue v s := rfl
  rw [hcmd, issue]
  refine ⟨fun ht => if_pos ht, fun ht hb => ?_, fun ht hb hl => ?_, fun ht hb hl => ?_⟩
  · rw [if_neg (not_not_intro ht), if_pos hb]; rfl
  · rw [if_neg (not_not_intro ht), if_neg (by simp [hb]), if_pos hl]; rfl
  · rw [if_neg (not_not_intro ht), if_neg (by simp [hb]), if_neg (by simp [hl])]; rfl

end Sys2Proof.Machine
end

section
/-! PROOFS. The Field Engine (spec/40_field.md): the reference product is bilinear and associative, the antilog table is
the powers of the primitive element, and the table commands compute with that product. -/

namespace Sys2Proof.Machine

/-! The reference product (R78), for any generating polynomial: each of its two loops is linear over exclusive-or. -/

/-- Adding x under a condition is linear in the condition and in what x is added to. -/
theorem condXor_xor {n : Nat} (p q : Bool) (r r' x : BitVec n) :
    (bif p ^^ q then (r ^^^ r') ^^^ x else r ^^^ r') =
      (bif p then r ^^^ x else r) ^^^ (bif q then r' ^^^ x else r') := by
  cases p <;> cases q
  case true.true =>
    calc r ^^^ r' = (r ^^^ r') ^^^ (x ^^^ x) := by simp
      _ = (r ^^^ x) ^^^ (r' ^^^ x) := by ac_rfl
  all_goals simp only [cond_true, cond_false, Bool.xor_false, Bool.xor_true, Bool.not_false]
  all_goals ac_rfl

theorem clmul_xor_left (a b c : Byte) : clmul (a ^^^ b) c = clmul a c ^^^ clmul b c := by
  refine List.foldl_hom₂ _ (· ^^^ ·) _ _ _ 0#15 0#15 fun r r' i => ?_
  cases c.getLsbD i with
  | false => rfl
  | true =>
    simp only [cond_true, BitVec.setWidth_xor, BitVec.shiftLeft_xor_distrib]
    ac_rfl

theorem clmul_xor_right (a b c : Byte) : clmul a (b ^^^ c) = clmul a b ^^^ clmul a c := by
  refine List.foldl_hom₂ _ (· ^^^ ·) _ _ _ 0#15 0#15 fun r r' i => ?_
  rw [BitVec.getLsbD_xor, condXor_xor]

theorem reduceBy_xor (poly : BitVec 9) (r r' : BitVec 15) :
    reduceBy poly (r ^^^ r') = reduceBy poly r ^^^ reduceBy poly r' := by
  refine List.foldl_hom₂ _ (· ^^^ ·) _ _ _ r r' fun r r' k => ?_
  rw [BitVec.getLsbD_xor, condXor_xor]

theorem clmulMod_xor_left (poly : BitVec 9) (a b c : Byte) :
    clmulMod poly (a ^^^ b) c = clmulMod poly a c ^^^ clmulMod poly b c := by
  simp only [clmulMod, clmul_xor_left, reduceBy_xor, BitVec.setWidth_xor]

theorem clmulMod_xor_right (poly : BitVec 9) (a b c : Byte) :
    clmulMod poly a (b ^^^ c) = clmulMod poly a b ^^^ clmulMod poly a c := by
  simp only [clmulMod, clmul_xor_right, reduceBy_xor, BitVec.setWidth_xor]

@[simp] theorem clmulMod_zero_left (poly : BitVec 9) (b : Byte) : clmulMod poly 0#8 b = 0#8 := by
  simpa using clmulMod_xor_left poly 0#8 0#8 b

@[simp] theorem clmulMod_zero_right (poly : BitVec 9) (a : Byte) : clmulMod poly a 0#8 = 0#8 := by
  simpa using clmulMod_xor_right poly a 0#8 0#8

/-- What holds of 0 and of every single bit and is kept by exclusive-or holds of every bit vector. -/
theorem bitVec_xor_induction {n : Nat} {P : BitVec n → Prop} (zero : P 0#n)
    (bit : ∀ i, i < n → P (BitVec.twoPow n i)) (xor : ∀ a b, P a → P b → P (a ^^^ b)) (a : BitVec n) : P a := by
  have low (k : Nat) (hk : k ≤ n) : P ((a.setWidth k).setWidth n) := by
    induction k with
    | zero =>
      rw [BitVec.eq_nil (a.setWidth 0)]
      simpa using zero
    | succ k ih =>
      cases hbit : a.getLsbD k with
      | false =>
        rw [BitVec.setWidth_setWidth_succ_eq_setWidth_setWidth_of_getLsbD_false hbit]
        exact ih (by omega)
      | true =>
        have hdisjoint : (a.setWidth k).setWidth n ||| BitVec.twoPow n k =
            (a.setWidth k).setWidth n ^^^ BitVec.twoPow n k := by
          ext j hj
          by_cases hjk : j = k <;> simp [hjk]
        rw [BitVec.setWidth_setWidth_succ_eq_setWidth_setWidth_or_twoPow_of_getLsbD_true hbit, hdisjoint]
        exact xor _ _ (ih (by omega)) (bit k hk)
  simpa using low n (Nat.le_refl n)

/-! The reference product of this hardware: on single bits by evaluation, then everywhere by linearity. -/

@[simp] theorem clmulMod_one_right (a : Byte) : clmulMod Config.fieldPoly a 1#8 = a := by
  induction a using bitVec_xor_induction with
  | zero => rfl
  | bit i hi => revert i; decide +kernel
  | xor a b ha hb => rw [clmulMod_xor_left, ha, hb]

theorem clmulMod_prim_assoc (a b : Byte) :
    clmulMod Config.fieldPoly (clmulMod Config.fieldPoly a b) Config.prim =
      clmulMod Config.fieldPoly a (clmulMod Config.fieldPoly b Config.prim) := by
  induction a using bitVec_xor_induction with
  | zero => simp
  | xor a a' ha ha' => simp only [clmulMod_xor_left, ha, ha']
  | bit i hi =>
    induction b using bitVec_xor_induction with
    | zero => simp
    | xor b b' hb hb' => simp only [clmulMod_xor_left, clmulMod_xor_right, hb, hb']
    | bit j hj => revert i j; decide +kernel

/-! The powers of the primitive element (R79; 41_tables.md R91 to R93). -/

/-- PRIM^i, by the reference product. -/
def primPow (i : Nat) : Byte := (fun x => clmulMod Config.fieldPoly x Config.prim)^[i] 1#8

@[simp] theorem primPow_zero : primPow 0 = 1#8 := rfl

theorem primPow_one : primPow 1 = 0x02#8 := by decide

/-- The first power that the reduction touches: x^8 = x^4 + x^3 + x^2 + 1. -/
theorem primPow_eight : primPow 8 = 0x1D#8 := by decide +kernel

theorem primPow_succ (i : Nat) : primPow (i + 1) = clmulMod Config.fieldPoly (primPow i) Config.prim :=
  Function.iterate_succ_apply' ..

theorem primPow_add (i j : Nat) : clmulMod Config.fieldPoly (primPow i) (primPow j) = primPow (i + j) := by
  induction j with
  | zero => exact clmulMod_one_right _
  | succ j ih => rw [primPow_succ, ← clmulMod_prim_assoc, ih, ← Nat.add_assoc, primPow_succ]

theorem candidate_primPow {i : Nat} (hi : i < 255) :
    (candidate Config.fieldPoly Config.prim)[i]? = some (primPow i) := candidate_getElem _ _ i hi

theorem read_builtExp {i : Nat} (hi : i < 255) : builtExp.read i = some (primPow i) := by
  rw [builtExp, expOf, Memory.read_block, if_pos (Nat.zero_le i), Nat.sub_zero, candidate_primPow hi]

/-- The group order (00_scope.md R6): the last entry the spec lists, doubled, is 1. -/
theorem primPow_order : primPow 255 = 1#8 := by
  have hlast : some (primPow 254) = listedExp.read 254 := by rw [← builtExp_eq, read_builtExp (by decide)]
  have hlist : listedExp.read 254 = some 0x8E#8 := by decide +kernel
  rw [primPow_succ, Option.some_inj.1 (hlast.trans hlist)]
  decide

theorem primPow_mod (n : Nat) : primPow (n % 255) = primPow n :=
  Function.IsPeriodicPt.iterate_mod_apply primPow_order n

theorem primPow_ne_zero (n : Nat) : primPow n ≠ 0#8 := by
  rw [← primPow_mod]
  exact ((checkTable_candidate_iff _ _).1 checkTable_hardware).1 _ (Nat.mod_lt _ (by decide))

/-- The walk passes every nonzero byte: it has 255 distinct nonzero values. -/
theorem exists_primPow {a : Byte} (ha : a ≠ 0#8) : ∃ i, i < 255 ∧ a = primPow i := by
  obtain ⟨hnonzero, hnodup⟩ := (checkTable_iff _).1 checkTable_hardware
  have hzero : 0#8 ∉ (candidate Config.fieldPoly Config.prim).toFinset := fun h =>
    hnonzero _ (List.mem_toFinset.1 h) rfl
  have hall : (candidate Config.fieldPoly Config.prim).toFinset.cons 0#8 hzero = Finset.univ := by
    apply Finset.eq_univ_of_card
    rw [Finset.card_cons, List.toFinset_card_of_nodup hnodup, candidate_length,
      Fintype.card_congr BitVec.equivFin.toEquiv, Fintype.card_fin]
    decide
  have hmem : a ∈ candidate Config.fieldPoly Config.prim := by
    have huniv := Finset.mem_univ a
    rw [← hall] at huniv
    simpa [ha] using huniv
  obtain ⟨i, hi⟩ := List.getElem?_of_mem hmem
  obtain ⟨hlt, -⟩ := List.getElem?_eq_some_iff.1 hi
  rw [candidate_length] at hlt
  exact ⟨i, hlt, Option.some_inj.1 (hi.symm.trans (candidate_primPow hlt))⟩

/-- A cell that the walk does not name is as it was before LOG is filled in. -/
theorem read_logFrom_of_not_mem {x : Byte} {t : List Byte} (m : Memory) (i : Nat) (hx : x ∉ t) :
    (logFrom m i t).read x.toNat = m.read x.toNat := by
  induction t generalizing m i with
  | nil => rfl
  | cons y t ih =>
    obtain ⟨hne, ht⟩ := not_or.1 (mt List.mem_cons.2 hx)
    rw [logFrom, ih _ _ ht, Memory.read_write_other _ _ fun h => hne (BitVec.eq_of_toNat_eq h.symm)]

/-- LOG[T[j]] <- j, counted from i (R91). -/
theorem read_logFrom {x : Byte} {t : List Byte} {j : Nat} (m : Memory) (i : Nat) (ht : t.Nodup) (hj : t[j]? = some x) :
    (logFrom m i t).read x.toNat = some (BitVec.ofNat 8 (i + j)) := by
  induction t generalizing m i j with
  | nil => cases hj
  | cons y t ih =>
    obtain ⟨hy, ht⟩ := List.nodup_cons.1 ht
    cases j with
    | zero =>
      cases hj
      rw [logFrom, read_logFrom_of_not_mem _ _ hy, Memory.read_write_same, Nat.add_zero]
    | succ j => rw [logFrom, ih _ _ ht hj, Nat.add_right_comm, Nat.add_assoc]

theorem read_builtLog {i : Nat} (hi : i < 255) : builtLog.read (primPow i).toNat = some (BitVec.ofNat 8 i) := by
  have hnodup := ((checkTable_iff _).1 checkTable_hardware).2
  rw [builtLog, logOf, read_logFrom _ _ hnodup (candidate_primPow hi), Nat.zero_add]

/-! The field laws of the reference product (R82), from the powers. -/

theorem eq_zero_or_primPow (a : Byte) : a = 0#8 ∨ ∃ i, i < 255 ∧ a = primPow i := by
  by_cases ha : a = 0#8
  · exact .inl ha
  · exact .inr (exists_primPow ha)

theorem clmulMod_comm (a b : Byte) : clmulMod Config.fieldPoly a b = clmulMod Config.fieldPoly b a := by
  obtain rfl | ⟨i, -, rfl⟩ := eq_zero_or_primPow a
  · simp
  obtain rfl | ⟨j, -, rfl⟩ := eq_zero_or_primPow b
  · simp
  rw [primPow_add, primPow_add, Nat.add_comm]

theorem clmulMod_assoc (a b c : Byte) :
    clmulMod Config.fieldPoly (clmulMod Config.fieldPoly a b) c =
      clmulMod Config.fieldPoly a (clmulMod Config.fieldPoly b c) := by
  obtain rfl | ⟨k, -, rfl⟩ := eq_zero_or_primPow c
  · simp
  induction k with
  | zero => simp
  | succ k ih => rw [primPow_succ, ← clmulMod_prim_assoc, ← clmulMod_prim_assoc, ← clmulMod_prim_assoc, ih]

theorem clmulMod_eq_zero {a b : Byte} (h : clmulMod Config.fieldPoly a b = 0#8) : a = 0#8 ∨ b = 0#8 := by
  by_contra hne
  obtain ⟨ha, hb⟩ := not_or.1 hne
  obtain ⟨i, -, rfl⟩ := exists_primPow ha
  obtain ⟨j, -, rfl⟩ := exists_primPow hb
  exact primPow_ne_zero _ ((primPow_add i j).symm.trans h)

/-- What the table generator leaves in EXP and LOG (41_tables.md R91). -/
structure State.TablesBuilt (s : State) : Prop where
  expTab : s.expTab = builtExp
  logTab : s.logTab = builtLog

theorem State.Inv.tablesBuilt {s : State} (hs : s.Inv) (hready : s.tstate = .ready) : s.TablesBuilt :=
  ⟨(hs.tables hready).1, (hs.tables hready).2⟩

/-- The convention at 0 (R80), which reads no table. -/
theorem State.gfPow_zero_left (s : State) (e : Nat) : s.gfPow 0#8 e = if e = 0 then 1#8 else 0#8 := if_pos rfl

/-! What the table functions compute once the tables are built (R77, R80, R81). -/

section
variable {s : State} (hs : s.TablesBuilt)
include hs

theorem State.TablesBuilt.read_exp {i : Nat} (hi : i < 255) : s.expTab.read i = some (primPow i) := by
  rw [hs.expTab, read_builtExp hi]

theorem State.TablesBuilt.read_log {i : Nat} (hi : i < 255) :
    s.logTab.read (primPow i).toNat = some (BitVec.ofNat 8 i) := by
  rw [hs.logTab, read_builtLog hi]

/-- LOG holds, for a nonzero byte, the power it is (41_tables.md R93). -/
theorem State.TablesBuilt.exists_log {a : Byte} (ha : a ≠ 0#8) :
    ∃ la : Byte, s.logTab.read a.toNat = some la ∧ la.toNat ≤ 254 ∧ a = primPow la.toNat := by
  obtain ⟨i, hi, rfl⟩ := exists_primPow ha
  have hlog : (BitVec.ofNat 8 i).toNat = i := Nat.mod_eq_of_lt (by omega)
  exact ⟨_, hs.read_log hi, by omega, by rw [hlog]⟩

theorem State.TablesBuilt.read_exp_mod (n : Nat) : s.expTab.read (n % 255) = some (primPow n) := by
  rw [hs.read_exp (Nat.mod_lt _ (by decide)), primPow_mod]

theorem State.TablesBuilt.expAt_mod (n : Nat) : s.expAt (n % Config.order) = primPow n :=
  State.cell_of_read (m := .exp) (hs.read_exp_mod n)

theorem State.TablesBuilt.logAt_primPow {i : Nat} (hi : i < 255) : s.logAt (primPow i) = i := by
  rw [State.logAt, State.cell_of_read (m := .log) (hs.read_log hi), BitVec.toNat_ofNat]
  omega

theorem State.TablesBuilt.gfMul_eq (a b : Byte) : s.gfMul a b = clmulMod Config.fieldPoly a b := by
  obtain rfl | ⟨i, hi, rfl⟩ := eq_zero_or_primPow a
  · simp [State.gfMul]
  obtain rfl | ⟨j, hj, rfl⟩ := eq_zero_or_primPow b
  · simp [State.gfMul]
  rw [State.gfMul, if_neg (by simp [primPow_ne_zero]), hs.logAt_primPow hi, hs.logAt_primPow hj, hs.expAt_mod,
    primPow_add]

theorem State.TablesBuilt.gfPow_primPow {i : Nat} (hi : i < 255) (e : Nat) :
    s.gfPow (primPow i) e = primPow (i * e) := by
  rw [State.gfPow, if_neg (primPow_ne_zero i), hs.logAt_primPow hi, hs.expAt_mod]

theorem State.TablesBuilt.gfPow_prim (e : Nat) : s.gfPow 0x02#8 e = primPow e := by
  rw [← primPow_one, hs.gfPow_primPow (by decide), Nat.one_mul]

theorem State.TablesBuilt.gfPow_one_left (e : Nat) : s.gfPow 1#8 e = 1#8 := by
  rw [← primPow_zero, hs.gfPow_primPow (by decide), Nat.zero_mul]

theorem State.TablesBuilt.gfPow_zero_right (a : Byte) : s.gfPow a 0 = 1#8 := by
  obtain rfl | ⟨i, hi, rfl⟩ := eq_zero_or_primPow a
  · rfl
  · rw [hs.gfPow_primPow hi, Nat.mul_zero, primPow_zero]

theorem State.TablesBuilt.gfPow_add (a : Byte) (e1 e2 : Nat) :
    s.gfPow a (e1 + e2) = clmulMod Config.fieldPoly (s.gfPow a e1) (s.gfPow a e2) := by
  obtain rfl | ⟨i, hi, rfl⟩ := eq_zero_or_primPow a
  · simp only [State.gfPow_zero_left]
    by_cases h1 : e1 = 0 <;> by_cases h2 : e2 = 0 <;> simp [h1, h2]
  · rw [hs.gfPow_primPow hi, hs.gfPow_primPow hi, hs.gfPow_primPow hi, primPow_add, Nat.mul_add]

theorem State.TablesBuilt.gfPow_mod {a : Byte} (ha : a ≠ 0#8) (e : Nat) : s.gfPow a e = s.gfPow a (e % 255) := by
  obtain ⟨i, hi, rfl⟩ := exists_primPow ha
  rw [hs.gfPow_primPow hi, hs.gfPow_primPow hi, ← primPow_mod, ← primPow_mod (i * (e % 255)), Nat.mul_mod_mod]

theorem State.TablesBuilt.gfInv_primPow {i : Nat} (hi : i < 255) : s.gfInv (primPow i) = primPow (255 - i) := by
  rw [State.gfInv, hs.logAt_primPow hi, hs.expAt_mod, Config.order]

theorem State.TablesBuilt.clmulMod_gfInv {a : Byte} (ha : a ≠ 0#8) :
    clmulMod Config.fieldPoly a (s.gfInv a) = 1#8 := by
  obtain ⟨i, hi, rfl⟩ := exists_primPow ha
  rw [hs.gfInv_primPow hi, primPow_add, Nat.add_sub_cancel' (by omega), primPow_order]

/-- The inverse is the only byte whose product with a is 1. -/
theorem State.TablesBuilt.gfInv_eq {a x : Byte} (ha : a ≠ 0#8) (hx : clmulMod Config.fieldPoly x a = 1#8) :
    s.gfInv a = x := by
  calc s.gfInv a = clmulMod Config.fieldPoly (clmulMod Config.fieldPoly x a) (s.gfInv a) := by
        rw [hx, clmulMod_comm, clmulMod_one_right]
    _ = x := by rw [clmulMod_assoc, hs.clmulMod_gfInv ha, clmulMod_one_right]

end

/-! The commands (R76 to R81): decoding and completion, for every word and in every state. -/

theorem exec_mul (a b : Byte) (s : State) : exec (.mul a b) s = .next { s with result := s.gfMul a b } := rfl

theorem exec_pow (a : Byte) (e : Exponent) (s : State) :
    exec (.pow a e) s = .next { s with result := s.gfPow a e.toNat } := rfl

theorem exec_inv {a : Byte} (ha : a ≠ 0#8) (s : State) : exec (.inv a) s = .next { s with result := s.gfInv a } :=
  if_neg ha

theorem decode_of_mask (o : Op) {v : Word} (h : v &&& o.mask = o.pattern) : decode v = .ok (o.instr v) :=
  decode_of_matches ((Op.matches_iff o v).2 h)

/-- Settles O29: once the tables are built gf_mul is the reference product. -/
theorem mulIsReferenceProduct : Obligations.MulIsReferenceProduct := by
  unfold Obligations.MulIsReferenceProduct
  intro a b s hs hready
  rw [exec_mul, (hs.tablesBuilt hready).gfMul_eq]
  rfl

/-- Settles O28: by the entries of the tables at the logarithms of the operands; the fixed products by the reference
product. -/
theorem mulByTables : Obligations.MulByTables := by
  unfold Obligations.MulByTables
  refine ⟨fun v => decode_of_mask .mul, fun a b s hzero => ?_, fun a b s hs hready ha hb => ?_, fun a s hs hready => ?_⟩
  · rw [exec_mul, State.gfMul, if_pos hzero]
  · have htab := hs.tablesBuilt hready
    obtain ⟨la, hla, hla', rfl⟩ := htab.exists_log ha
    obtain ⟨lb, hlb, hlb', rfl⟩ := htab.exists_log hb
    refine ⟨la, lb, _, hla, hlb, by omega, htab.read_exp_mod _, ?_⟩
    rw [exec_mul, htab.gfMul_eq, primPow_add]
  · have htab := hs.tablesBuilt hready
    have value {b c x : Byte} (hx : clmulMod Config.fieldPoly b c = x) :
        exec (.mul b c) s = .next { s with result := x } := by rw [exec_mul, htab.gfMul_eq, hx]
    exact ⟨value (clmulMod_one_right a), value (by decide), value (by decide)⟩

/-- Settles O31: by the entry of EXP at the exponent product; 1 and 0x02 are the powers 0 and 1 of the primitive
element. -/
theorem powByTables : Obligations.PowByTables := by
  unfold Obligations.PowByTables
  refine ⟨fun v => decode_of_mask .pow, fun s => rfl, fun e s he => ?_, fun a e s hs hready ha => ?_,
    fun a e s hs hready => ?_⟩
  · have hpos : e.toNat ≠ 0 := fun h => he (BitVec.eq_of_toNat_eq h)
    rw [exec_pow, State.gfPow_zero_left, if_neg hpos]
  · have htab := hs.tablesBuilt hready
    obtain ⟨la, hla, hla', rfl⟩ := htab.exists_log ha
    refine ⟨la, _, hla, hla', htab.read_exp_mod _, ?_⟩
    rw [exec_pow, htab.gfPow_primPow (by omega)]
  · have htab := hs.tablesBuilt hready
    have value {b x : Byte} {e : Exponent} (hx : s.gfPow b e.toNat = x) :
        exec (.pow b e) s = .next { s with result := x } := by rw [exec_pow, hx]
    refine ⟨value (htab.gfPow_zero_right a), value (htab.gfPow_one_left _), fun ha he => value ?_, value ?_, value ?_⟩
    · rw [htab.gfPow_mod ha, he, htab.gfPow_zero_right]
    · calc s.gfPow 0x02#8 256 = primPow (256 % 255) := by rw [htab.gfPow_prim, primPow_mod]
        _ = 0x02#8 := primPow_one
    · exact (htab.gfPow_prim 8).trans primPow_eight

/-- Settles O32: the product of two powers whose exponents add up to the group order is 1, and the inverse is unique. -/
theorem invByTables : Obligations.InvByTables := by
  unfold Obligations.InvByTables
  refine ⟨fun v => decode_of_mask .inv, fun s => rfl, fun a s hs hready ha => ?_, fun s hs hready => ?_⟩
  · have htab := hs.tablesBuilt hready
    obtain ⟨la, hla, hla', hpow⟩ := htab.exists_log ha
    refine ⟨la, s.gfInv a, hla, ?_, exec_inv ha s, ?_⟩
    · rw [htab.read_exp_mod, hpow, htab.gfInv_primPow (by omega)]
    · rw [exec_mul, htab.gfMul_eq, htab.clmulMod_gfInv ha]
  · have value {a x : Byte} (ha : a ≠ 0#8) (hx : clmulMod Config.fieldPoly x a = 1#8) :
        exec (.inv a) s = .next { s with result := x } := by
      rw [exec_inv ha, (hs.tablesBuilt hready).gfInv_eq ha hx]
    exact ⟨value (by decide) (by decide), value (by decide) (by decide), value (by decide) (by decide),
      value (by decide) (by decide)⟩

/-- Settles O37: the laws of gf_mul are the reference product's. -/
theorem fieldLaws : Obligations.FieldLaws := by
  unfold Obligations.FieldLaws
  intro s hs hready a b c
  have htab := hs.tablesBuilt hready
  simp only [gfAdd, htab.gfMul_eq]
  exact ⟨BitVec.xor_assoc .., BitVec.xor_comm .., BitVec.xor_zero, BitVec.xor_self, clmulMod_comm ..,
    clmulMod_assoc .., clmulMod_one_right a, clmulMod_zero_right .., clmulMod_xor_right .., clmulMod_eq_zero,
    htab.gfPow_add a, htab.gfPow_mod⟩

/-- Settles O27: gf_add is exclusive-or, and issue refuses ADD's word as it refuses every word. -/
theorem addIsXor : Obligations.AddIsXor := by
  unfold Obligations.AddIsXor
  refine ⟨fun v => decode_of_mask .add, fun a b s => rfl, fun a s => ?_,
    fun s => ⟨decode_encode (.add 0x02#8 0x04#8), rfl⟩, fun a b s => ?_⟩
  · have hadd (b : Byte) : exec (.add a b) s = .next { s with result := a ^^^ b } := rfl
    rw [hadd, hadd, BitVec.xor_self, BitVec.xor_zero]
    exact ⟨rfl, rfl⟩
  · obtain ⟨hnotReady, hbusy, -⟩ := issueChecksInOrder s (encode (.add a b))
    exact ⟨legal_encode _, hnotReady, hbusy⟩

/-- Settles O30: PRIM's result and CFG are the same constant, which is EXP[1]. -/
theorem primGivesThePrimitiveElement : Obligations.PrimGivesThePrimitiveElement := by
  unfold Obligations.PrimGivesThePrimitiveElement
  refine ⟨fun v => decode_of_mask .prim, fun s => rfl, fun s => ?_, fun s hs hready => ?_, fun s hfail => ?_⟩
  · have hcfg : busRead 0x000 s = cfgWord := busRead_of_not_hidden s rfl
    rw [hcfg]
    rfl
  · rw [(hs.tablesBuilt hready).read_exp (by decide), primPow_one]
  · exact (issueChecksInOrder s _).1 (by simp [hfail])

end Sys2Proof.Machine
end

section
/-! PROOFS. The exp/log table generator (spec/41_tables.md): what BUILD writes for any parameters, the tables of this
hardware as inverse functions, and the commands EXP and LOG. -/

namespace Sys2Proof.Machine

/-! BUILD, for any generating polynomial and primitive element (R91, R92). -/

theorem buildWith_of_check {poly : BitVec 9} {prim : Byte} (s : State) (h : checkTable (candidate poly prim) = true) :
    buildWith poly prim s = s.setTables (expOf (candidate poly prim)) (logOf (candidate poly prim)) := if_pos h

theorem buildWith_of_failed_check {poly : BitVec 9} {prim : Byte} (s : State)
    (h : ¬checkTable (candidate poly prim) = true) :
    buildWith poly prim s = s.setCfgFail.recordError .fieldConfig := if_neg h

theorem read_expOf (t : List Byte) (i : Nat) : (expOf t).read i = t[i]? := by
  rw [expOf, Memory.read_block, if_pos (Nat.zero_le i), Nat.sub_zero]

theorem read_logOf {x : Byte} {t : List Byte} {i : Nat} (ht : t.Nodup) (hi : t[i]? = some x) :
    (logOf t).read x.toNat = some (BitVec.ofNat 8 i) := by
  rw [logOf, read_logFrom _ _ ht hi, Nat.zero_add]

theorem read_logOf_zero {t : List Byte} (h : ∀ x ∈ t, x ≠ 0#8) : (logOf t).read 0 = none :=
  read_logFrom_of_not_mem (x := 0#8) [] 0 fun hmem => h _ hmem rfl

/-- Settles O35: the check passes exactly when the powers are nonzero and distinct, and each case is one branch of
BUILD. -/
theorem buildWalksThePowers : Obligations.BuildWalksThePowers := by
  unfold Obligations.BuildWalksThePowers
  intro poly prim s
  rw [← checkTable_candidate_iff]
  refine ⟨fun hcheck => ?_, buildWith_of_failed_check s⟩
  obtain ⟨hnonzero, hnodup⟩ := (checkTable_iff _).1 hcheck
  refine ⟨_, _, buildWith_of_check s hcheck, read_logOf_zero hnonzero, fun i hi => ?_⟩
  have hpower := candidate_getElem poly prim i hi
  exact ⟨(read_expOf _ i).trans hpower, read_logOf hnodup hpower⟩

/-! The tables of this hardware (R93). -/

/-- A power of the primitive element, from the spec's listing of EXP (95_test_vectors.md section 2.2). -/
theorem primPow_of_listed {i : Nat} {x : Byte} (hi : i < 255) (h : listedExp.read i = some x) : primPow i = x := by
  rw [← builtExp_eq, read_builtExp hi] at h
  exact Option.some_inj.1 h

theorem primPow_twentyFive : primPow 25 = 0x03#8 := primPow_of_listed (by decide) (by decide +kernel)

theorem primPow_last : primPow 254 = 0x8E#8 := primPow_of_listed (by decide) (by decide +kernel)

/-- Settles O36: EXP holds the powers of the primitive element and LOG their exponents. -/
theorem tablesAreInverse : Obligations.TablesAreInverse := by
  unfold Obligations.TablesAreInverse
  intro s hs hready
  have htab := hs.tablesBuilt hready
  have hexp {i : Nat} {x : Byte} (hi : i < 255) (hx : primPow i = x) : s.expTab.read i = some x := by
    rw [htab.read_exp hi, hx]
  have hlog {i : Nat} {x : Byte} (hi : i < 255) (hx : primPow i = x) :
      s.logTab.read x.toNat = some (BitVec.ofNat 8 i) := by rw [← hx, htab.read_log hi]
  refine ⟨fun e he => ?_, fun i hi => ⟨_, htab.read_exp hi, primPow_ne_zero i, htab.read_log hi⟩,
    hlog (by decide) primPow_zero, hexp (by decide) primPow_zero, hexp (by decide) primPow_one,
    hlog (by decide) primPow_one, hexp (by decide) primPow_eight⟩
  obtain ⟨la, hla, hla', hpow⟩ := htab.exists_log he
  exact ⟨la, hla, by omega, hexp (by omega) hpow.symm⟩

/-! The lookup commands (R94, R95). -/

section
variable {s : State} (hs : s.TablesBuilt)
include hs

theorem State.TablesBuilt.exec_exp (e : Exponent) :
    exec (.exp e) s = .next { s with result := primPow e.toNat } := by
  rw [← hs.expAt_mod]
  rfl

theorem State.TablesBuilt.exec_log_primPow {i : Nat} (hi : i < 255) :
    exec (.log (primPow i)) s = .next { s with result := BitVec.ofNat 8 i } := by
  calc exec (.log (primPow i)) s = .next { s with result := BitVec.ofNat 8 (s.logAt (primPow i)) } :=
        if_neg (primPow_ne_zero i)
    _ = .next { s with result := BitVec.ofNat 8 i } := by rw [hs.logAt_primPow hi]

end

/-- Settles O33: EXP gives the power of the primitive element, and so does POW 0x02; the powers repeat after 255. -/
theorem expReadsTheAntilog : Obligations.ExpReadsTheAntilog := by
  unfold Obligations.ExpReadsTheAntilog
  refine ⟨fun v => decode_of_mask .exp, fun e s hs hready => ?_, fun s hs hready => ?_⟩
  · have htab := hs.tablesBuilt hready
    refine ⟨primPow e.toNat, htab.read_exp_mod _, htab.exec_exp e, ?_⟩
    rw [exec_pow, htab.gfPow_prim]
  · have value {e : Exponent} {x : Byte} (hx : primPow (e.toNat % 255) = x) :
        exec (.exp e) s = .next { s with result := x } := by
      rw [(hs.tablesBuilt hready).exec_exp, ← primPow_mod, hx]
    exact ⟨value primPow_zero, value primPow_zero, value primPow_last, value primPow_one, value primPow_zero,
      value primPow_twentyFive⟩

/-- Settles O34: a nonzero byte is a power of the primitive element below 255, and LOG gives that exponent. -/
theorem logReadsTheLog : Obligations.LogReadsTheLog := by
  unfold Obligations.LogReadsTheLog
  refine ⟨fun v => decode_of_mask .log, fun s => rfl, fun a s hs hready ha => ?_, fun s hs hready => ?_⟩
  · have htab := hs.tablesBuilt hready
    obtain ⟨i, hi, rfl⟩ := exists_primPow ha
    have hne : BitVec.ofNat 8 i ≠ 255#8 := by bv_omega
    exact ⟨_, htab.read_log hi, hne, htab.exec_log_primPow hi⟩
  · have value {a : Byte} {i : Nat} (hi : i < 255) (ha : primPow i = a) :
        exec (.log a) s = .next { s with result := BitVec.ofNat 8 i } := by
      rw [← ha, (hs.tablesBuilt hready).exec_log_primPow hi]
    exact ⟨value (by decide) primPow_zero, value (by decide) primPow_one, value (by decide) primPow_last,
      value (by decide) primPow_twentyFive⟩

end Sys2Proof.Machine
end

section
/-! PROOFS. The Polynomial Engine (spec/42_polynomial.md): what PMUL, PMONO, PEVAL and PMOVE write, and the algebra of
PMUL and PEVAL, read in the polynomials over the field elements. -/

namespace Sys2Proof.Machine

/-! The four commands, branch by branch (R101 to R104). -/

section
variable {s : State}

theorem exec_pmul_of_badLen (h : lenOk s.plen = false ∨ lenOk s.qlen = false) :
    exec .pmul s = .next (s.recordError .badLen) := by
  obtain hp | hq := h
  · exact if_pos hp
  · by_cases hp : lenOk s.plen = false
    · exact if_pos hp
    · exact (if_neg hp).trans (if_pos hq)

theorem exec_pmul_of_lenOk (hp : lenOk s.plen = true) (hq : lenOk s.qlen = true) :
    exec .pmul s =
      if 256 < s.productLen then .next (s.recordError .lenOverflow)
      else .next { s with rbuf := s.rbuf.writeFrom 0 s.product, rlen := BitVec.ofNat 9 s.productLen } :=
  (if_neg (by simp [hp])).trans (if_neg (by simp [hq]))

theorem exec_pmono (a : Byte) (s : State) :
    exec (.pmono a) s = .next { s with qbuf := s.qbuf.writeFrom 0 [a, 0x01#8], qlen := 2#9 } := rfl

theorem exec_peval_of_badLen (a : Byte) (h : lenOk s.plen = false) :
    exec (.peval a) s = .next (s.recordError .badLen) := if_pos h

theorem exec_peval_of_lenOk (a : Byte) (h : lenOk s.plen = true) :
    exec (.peval a) s = .next { s with result := s.horner a (s.coeffs .p s.plen.toNat) } := if_neg (by simp [h])

theorem exec_pmove_of_badLen (h : lenOk s.rlen = false) : exec .pmove s = .next (s.recordError .badLen) := if_pos h

theorem exec_pmove_of_lenOk (h : lenOk s.rlen = true) :
    exec .pmove s =
      .next { s with pbuf := s.pbuf.writeFrom 0 (s.coeffs .r s.rlen.toNat), plen := s.rlen } := if_neg (by simp [h])

end

/-! The entries of a buffer after a command has written the list vs from entry 0 on. -/

theorem Memory.read_writeFrom_zero (m : Memory) (vs : List Byte) (k : Nat) :
    (m.writeFrom 0 vs).read k = if k < vs.length then vs[k]? else m.read k := by
  simp [Memory.read_writeFrom]

/-- Writing a list a second time changes nothing. -/
theorem Memory.writeFrom_zero_idem {m : Memory} (vs : List Byte) (hm : m.wf = true) :
    (m.writeFrom 0 vs).writeFrom 0 vs = m.writeFrom 0 vs := by
  have hwf := m.wf_writeFrom 0 vs hm
  refine Memory.ext _ _ (Memory.wf_writeFrom _ 0 vs hwf) hwf fun k => ?_
  by_cases hk : k < vs.length <;> simp [Memory.read_writeFrom_zero, hk]

/-- The list that a buffer's first entries were written with is read back. -/
theorem State.coeffs_of_writeFrom {s : State} {m : Store} {b : Memory} {vs : List Byte} {n : Nat}
    (hmem : s.mem m = b.writeFrom 0 vs) (hn : n = vs.length) : s.coeffs m n = vs := by
  subst hn
  apply List.ext_getElem (State.coeffs_length ..)
  intro k _ hk
  have hread : (s.mem m).read k = some vs[k] := by simp [hmem, Memory.read_writeFrom_zero, hk]
  simp [State.coeffs, State.cell_of_read hread]

/-! The product's coefficients as R101 sums them. -/

/-- The indices below P's length whose distance to k is an index below Q's length, in rising order. -/
def State.convolutionIndices (s : State) (k : Nat) : List Nat :=
  (List.range (k + 1)).filter (fun i => decide (i < s.plen.toNat ∧ k - i < s.qlen.toNat))

theorem State.mem_convolutionIndices {s : State} {k i : Nat} :
    i ∈ s.convolutionIndices k ↔ i ≤ k ∧ i < s.plen.toNat ∧ k - i < s.qlen.toNat := by
  simp [State.convolutionIndices]

/-- The sum of the products of P's and Q's entries whose indices are below the lengths and add up to k. -/
def State.convolution (s : State) (k : Nat) : Byte :=
  (s.convolutionIndices k).foldl (fun c i => gfAdd c (s.gfMul (s.cell .p i) (s.cell .q (k - i)))) 0#8

/-- The indices from max(0, k - QLEN + 1) to min(k, PLEN - 1) are those of the convolution. -/
theorem State.productCoeff_eq_convolution {s : State} (hp : 1 ≤ s.plen.toNat) (k : Nat) :
    s.productCoeff k = s.convolution k := by
  have hindices : List.range' (k + 1 - s.qlen.toNat) (min k (s.plen.toNat - 1) + 1 - (k + 1 - s.qlen.toNat)) =
      s.convolutionIndices k := by
    refine (List.pairwise_lt_range' 1).eq_of_mem_iff (List.pairwise_lt_range.filter _) fun i => ?_
    rw [List.mem_range'_1, State.mem_convolutionIndices]
    omega
  rw [State.productCoeff, State.convolution, hindices]

/-- What PMUL writes with the lengths in range (R101). -/
theorem exec_pmul_of_fits {s : State} (hp : 1 ≤ s.plen.toNat) (hq : 1 ≤ s.qlen.toNat)
    (hn : s.plen.toNat + s.qlen.toNat - 1 ≤ 256) :
    ∃ n : Len, n.toNat = s.productLen ∧
      exec .pmul s = .next { s with rbuf := s.rbuf.writeFrom 0 s.product, rlen := n } := by
  refine ⟨BitVec.ofNat 9 s.productLen, Nat.mod_eq_of_lt (by rw [State.productLen]; omega), ?_⟩
  rw [exec_pmul_of_lenOk ((lenOk_iff _).2 (by omega)) ((lenOk_iff _).2 (by omega)),
    if_neg (by rw [State.productLen]; omega)]

/-- Settles O38: the written list is the convolution, and its length is RLEN. -/
theorem pmulIsTheConvolution : Obligations.PmulIsTheConvolution := by
  unfold Obligations.PmulIsTheConvolution
  refine ⟨fun v => decode_of_mask .pmul, fun s hp _ hq _ hn => ?_,
    fun s i v => ⟨State.cell_of_read (m := .p), State.cell_of_read (m := .q)⟩⟩
  obtain ⟨n, hlen, hexec⟩ := exec_pmul_of_fits hp hq hn
  refine ⟨_, n, hexec, hlen, fun k hk => ?_, fun k hk => ?_⟩
  · rw [hlen] at hk
    rw [Memory.read_writeFrom_zero, State.product_length, if_pos hk, State.product_getElem s k hk,
      State.productCoeff_eq_convolution hp, State.convolution, State.convolutionIndices]
  · rw [Memory.read_writeFrom_zero, State.product_length, if_neg (by omega)]

/-- Settles O39: the branches of PMUL that record an error. -/
theorem pmulLengthErrors : Obligations.PmulLengthErrors := by
  unfold Obligations.PmulLengthErrors
  refine fun s => ⟨fun h => exec_pmul_of_badLen ?_, fun hp hp' hq hq' hn => ?_⟩
  · rw [lenOk_eq_false_iff, lenOk_eq_false_iff]
    omega
  · exact (exec_pmul_of_lenOk ((lenOk_iff _).2 ⟨hp, hp'⟩) ((lenOk_iff _).2 ⟨hq, hq'⟩)).trans (if_pos hn)

/-- Settles O40: PMONO writes the list [a, 1]. -/
theorem pmonoLoadsTheRootFactor : Obligations.PmonoLoadsTheRootFactor := by
  unfold Obligations.PmonoLoadsTheRootFactor
  refine ⟨fun v => decode_of_mask .pmono, fun a s => ⟨_, exec_pmono a s, ?_, ?_, fun k hk => ?_⟩⟩
  · simp [Memory.read_writeFrom_zero]
  · simp [Memory.read_writeFrom_zero]
  · exact (Memory.read_writeFrom_zero ..).trans (if_neg (Nat.not_lt.2 hk))

/-- Settles O41: Horner's method folds the list of coefficients from its end. -/
theorem pevalIsHorner : Obligations.PevalIsHorner := by
  unfold Obligations.PevalIsHorner
  refine ⟨fun v => decode_of_mask .peval, fun a s h => exec_peval_of_badLen a ((lenOk_eq_false_iff _).2 h),
    fun a s hlo hhi => ?_, fun s i v => State.cell_of_read (m := .p)⟩
  rw [exec_peval_of_lenOk a ((lenOk_iff _).2 ⟨hlo, hhi⟩), State.horner, State.coeffs, List.foldr_map,
    List.foldl_reverse]

/-- Settles O43: PMOVE writes the entries of R, and reads none that it writes. -/
theorem pmoveCopiesTheProduct : Obligations.PmoveCopiesTheProduct := by
  unfold Obligations.PmoveCopiesTheProduct
  refine ⟨fun v => decode_of_mask .pmove, fun s h => exec_pmove_of_badLen ((lenOk_eq_false_iff _).2 h),
    fun s hlo hhi => ?_, fun s i v => State.cell_of_read (m := .r), fun s hs => ⟨hs.rlenRange, fun hne => ?_⟩⟩
  · refine ⟨_, exec_pmove_of_lenOk ((lenOk_iff _).2 ⟨hlo, hhi⟩), fun k hk => ?_, fun k hk => ?_⟩
    · rw [Memory.read_writeFrom_zero, State.coeffs_length, if_pos hk, State.coeffs_getElem _ _ _ _ hk]
    · rw [Memory.read_writeFrom_zero, State.coeffs_length, if_neg (by omega)]
  · have hok : lenOk s.rlen = true := (lenOk_iff _).2 ⟨Nat.pos_of_ne_zero hne, hs.rlenRange⟩
    have hagain := Memory.writeFrom_zero_idem (s.coeffs .r s.rlen.toNat) (hs.wf .p)
    refine ⟨_, exec_pmove_of_lenOk hok, (exec_pmove_of_lenOk ?_).trans ?_⟩
    · exact hok
    · exact congrArg (fun m => Host.Outcome.next { s with pbuf := m, plen := s.rlen }) hagain

/-! Two more values of the table functions (R80). -/

theorem State.TablesBuilt.gfPow_one_right {s : State} (hs : s.TablesBuilt) (a : Byte) : s.gfPow a 1 = a := by
  obtain rfl | ⟨i, hi, rfl⟩ := eq_zero_or_primPow a
  · rfl
  · rw [hs.gfPow_primPow hi, Nat.mul_one]

theorem State.TablesBuilt.gfMul_one_right {s : State} (hs : s.TablesBuilt) (a : Byte) : s.gfMul a 1#8 = a := by
  rw [hs.gfMul_eq, clmulMod_one_right]

/-! The field elements as a semiring, so that a list of coefficients is a polynomial of Mathlib (R82). -/

/-- The field elements under gf_add and the reference product; a type of its own, since the arithmetic of BitVec is
that of the numbers modulo 256. -/
def FieldElement : Type := Byte

/-- The field laws (R82) that the arithmetic of polynomials rests on; none of the properties of R105 subtracts. -/
@[reducible] def FieldElement.commSemiring : CommSemiring FieldElement where
  add := gfAdd
  zero := 0#8
  nsmul := @nsmulRec FieldElement ⟨0#8⟩ ⟨gfAdd⟩
  mul := clmulMod Config.fieldPoly
  one := 1#8
  add_assoc := BitVec.xor_assoc
  add_comm := BitVec.xor_comm
  zero_add _ := BitVec.zero_xor
  add_zero _ := BitVec.xor_zero
  mul_assoc := clmulMod_assoc
  mul_comm := clmulMod_comm
  mul_one := clmulMod_one_right
  one_mul a := (clmulMod_comm _ _).trans (clmulMod_one_right a)
  zero_mul := clmulMod_zero_left _
  mul_zero := clmulMod_zero_right _
  left_distrib := clmulMod_xor_right _
  right_distrib := clmulMod_xor_left _

/-- A reading of the bytes in a semiring under which gf_add and the reference product are its sum and product. -/
structure FieldReading {R : Type} [CommSemiring R] (φ : Byte → R) : Prop where
  injective : Function.Injective φ
  zero : φ 0#8 = 0
  one : φ 1#8 = 1
  add : ∀ a b, φ (gfAdd a b) = φ a + φ b
  mul : ∀ a b, φ (clmulMod Config.fieldPoly a b) = φ a * φ b

theorem exists_fieldReading : ∃ (R : Type) (_ : CommSemiring R) (φ : Byte → R), FieldReading φ :=
  letI := FieldElement.commSemiring
  ⟨FieldElement, FieldElement.commSemiring, id, Function.injective_id, rfl, rfl, fun _ _ => rfl, fun _ _ => rfl⟩

section
open Polynomial

variable {R : Type} [CommSemiring R] {φ : Byte → R} (hφ : FieldReading φ)

/-- The polynomial with the coefficients cs, lowest degree first (R27). -/
noncomputable def coeffPoly (φ : Byte → R) : List Byte → R[X]
  | [] => 0
  | c :: cs => X * coeffPoly φ cs + C (φ c)

theorem coeffPoly_coeff (cs : List Byte) (k : Nat) :
    (coeffPoly φ cs).coeff k = if h : k < cs.length then φ cs[k] else 0 := by
  induction cs generalizing k with
  | nil => simp [coeffPoly]
  | cons c cs ih =>
    cases k with
    | zero => simp [coeffPoly]
    | succ k => simp [coeffPoly, coeff_X_mul, ih]

theorem coeffPoly_natDegree_lt {cs : List Byte} (h : 1 ≤ cs.length) : (coeffPoly φ cs).natDegree < cs.length := by
  have hle : (coeffPoly φ cs).natDegree ≤ cs.length - 1 := by
    rw [natDegree_le_iff_coeff_eq_zero]
    intro k hk
    rw [coeffPoly_coeff, dif_neg (by omega)]
  omega

theorem coeffPoly_coeffs_coeff (s : State) (m : Store) (n k : Nat) :
    (coeffPoly φ (s.coeffs m n)).coeff k = if k < n then φ (s.cell m k) else 0 := by
  simp [coeffPoly_coeff, State.coeffs]

include hφ

/-- Lists of one length are determined by their polynomials. -/
theorem FieldReading.coeffPoly_injective {cs ds : List Byte} (hlen : cs.length = ds.length)
    (h : coeffPoly φ cs = coeffPoly φ ds) : cs = ds := by
  refine List.ext_getElem hlen fun k hc hd => hφ.injective ?_
  have hcoeff := congrArg (fun p => p.coeff k) h
  simpa [coeffPoly_coeff, hc, hd] using hcoeff

/-- A sum of bytes, folded from the left, is the semiring's sum. -/
theorem FieldReading.map_foldl_gfAdd {l : List Nat} (hl : l.Nodup) (f : Nat → Byte) :
    φ (l.foldl (fun c i => gfAdd c (f i)) 0#8) = ∑ i ∈ l.toFinset, φ (f i) := by
  calc φ (l.foldl (fun c i => gfAdd c (f i)) 0#8)
      = l.foldl (fun c i => c + φ (f i)) 0 := by
        rw [← hφ.zero]
        exact (List.foldl_hom φ fun c i => (hφ.add c (f i)).symm).symm
    _ = (l.map (fun i => φ (f i))).sum := by rw [List.sum_eq_foldl, List.foldl_map]
    _ = ∑ i ∈ l.toFinset, φ (f i) := (List.sum_toFinset _ hl).symm

section
variable {s : State} (hs : s.TablesBuilt)
include hs

theorem FieldReading.map_gfMul (a b : Byte) : φ (s.gfMul a b) = φ a * φ b := by rw [hs.gfMul_eq, hφ.mul]

theorem FieldReading.map_gfPow (a : Byte) (k : Nat) : φ (s.gfPow a k) = φ a ^ k := by
  induction k with
  | zero => rw [hs.gfPow_zero_right, hφ.one, pow_zero]
  | succ k ih => rw [hs.gfPow_add, hφ.mul, ih, hs.gfPow_one_right, pow_succ]

/-- Horner's method evaluates the polynomial (R103). -/
theorem FieldReading.map_horner (x : Byte) (cs : List Byte) : φ (s.horner x cs) = (coeffPoly φ cs).eval (φ x) := by
  induction cs with
  | nil => simp [coeffPoly, State.horner, hφ.zero]
  | cons c cs ih =>
    have hstep : s.horner x (c :: cs) = gfAdd (s.gfMul (s.horner x cs) x) c := rfl
    rw [hstep, hφ.add, hφ.map_gfMul hs, ih]
    simp [coeffPoly, mul_comm]

/-- The convolution is the coefficient of the product of the two polynomials (R101). -/
theorem FieldReading.map_convolution (k : Nat) :
    φ (s.convolution k) =
      (coeffPoly φ (s.coeffs .p s.plen.toNat) * coeffPoly φ (s.coeffs .q s.qlen.toNat)).coeff k := by
  rw [State.convolution, State.convolutionIndices, hφ.map_foldl_gfAdd (List.nodup_range.filter _), coeff_mul,
    Finset.Nat.sum_antidiagonal_eq_sum_range_succ fun i j =>
      (coeffPoly φ (s.coeffs .p s.plen.toNat)).coeff i * (coeffPoly φ (s.coeffs .q s.qlen.toNat)).coeff j,
    List.toFinset_filter, List.toFinset_range, Finset.sum_filter]
  refine Finset.sum_congr rfl fun i _ => ?_
  rw [coeffPoly_coeffs_coeff, coeffPoly_coeffs_coeff, hφ.map_gfMul hs]
  by_cases hi : i < s.plen.toNat <;> by_cases hj : k - i < s.qlen.toNat <;> simp [hi, hj]

/-- PMUL's list of coefficients is the product of the two polynomials. -/
theorem FieldReading.coeffPoly_product (hp : 1 ≤ s.plen.toNat) (hq : 1 ≤ s.qlen.toNat) :
    coeffPoly φ s.product = coeffPoly φ (s.coeffs .p s.plen.toNat) * coeffPoly φ (s.coeffs .q s.qlen.toNat) := by
  ext k
  rw [← hφ.map_convolution hs, coeffPoly_coeff]
  by_cases hk : k < s.productLen
  · simp [hk, State.product, State.productCoeff_eq_convolution hp]
  · have hempty : s.convolutionIndices k = [] := by
      refine List.eq_nil_iff_forall_not_mem.2 fun i hi => ?_
      rw [State.mem_convolutionIndices] at hi
      rw [State.productLen] at hk
      omega
    rw [dif_neg (by simpa using hk), State.convolution, hempty, List.foldl_nil, hφ.zero]

end

end

/-! The properties of PEVAL and PMUL once the tables are built (R103, R105). -/

theorem State.TablesBuilt.horner_eq_powerSum {s : State} (hs : s.TablesBuilt) (x : Byte) (m : Store) {n : Nat}
    (hn : 1 ≤ n) :
    s.horner x (s.coeffs m n) =
      (List.range n).foldl (fun acc k => gfAdd acc (s.gfMul (s.cell m k) (s.gfPow x k))) 0#8 := by
  obtain ⟨R, _, φ, hφ⟩ := exists_fieldReading
  have hdeg : (coeffPoly φ (s.coeffs m n)).natDegree < n := by
    simpa using coeffPoly_natDegree_lt (φ := φ) (cs := s.coeffs m n) (by simpa using hn)
  apply hφ.injective
  rw [hφ.map_horner hs, hφ.map_foldl_gfAdd List.nodup_range, List.toFinset_range, Polynomial.eval_eq_sum_range' hdeg]
  refine Finset.sum_congr rfl fun k hk => ?_
  rw [coeffPoly_coeffs_coeff, if_pos (Finset.mem_range.1 hk), hφ.map_gfMul hs, hφ.map_gfPow hs]

/-- At 0 Horner's method leaves the last coefficient it adds. -/
theorem State.horner_zero (s : State) (m : Store) {n : Nat} (hn : 1 ≤ n) :
    s.horner 0#8 (s.coeffs m n) = s.cell m 0 := by
  obtain ⟨n, rfl⟩ := Nat.exists_eq_add_of_le' hn
  simp [State.coeffs, List.range_succ_eq_map, State.horner, State.gfMul, gfAdd]

/-- Settles O42: Horner's value as the sum of the terms of the polynomial, and that sum at 1. -/
theorem pevalIsThePowerSum : Obligations.PevalIsThePowerSum := by
  unfold Obligations.PevalIsThePowerSum
  intro a s hs hready hlo hhi
  have htab := hs.tablesBuilt hready
  have hok : lenOk s.plen = true := (lenOk_iff _).2 ⟨hlo, hhi⟩
  rw [exec_peval_of_lenOk a hok, exec_peval_of_lenOk 0#8 hok, exec_peval_of_lenOk 1#8 hok,
    htab.horner_eq_powerSum a .p hlo, s.horner_zero .p hlo, htab.horner_eq_powerSum 1#8 .p hlo]
  simp only [htab.gfPow_one_left, htab.gfMul_one_right, and_self]

/-- The product with [1] is P (R105). -/
theorem State.TablesBuilt.product_one {s : State} (hs : s.TablesBuilt) (hp : 1 ≤ s.plen.toNat)
    (hq : s.coeffs .q s.qlen.toNat = [1#8]) : s.product = s.coeffs .p s.plen.toNat := by
  have hqlen : s.qlen.toNat = 1 := by simpa using congrArg List.length hq
  obtain ⟨R, _, φ, hφ⟩ := exists_fieldReading
  apply hφ.coeffPoly_injective
  · simp [State.productLen, hqlen]
  · rw [hφ.coeffPoly_product hs hp (by omega), hq]
    simp [coeffPoly, hφ.one]

/-- The top coefficient of the product is one product (R105). -/
theorem State.productCoeff_top {s : State} (hp : 1 ≤ s.plen.toNat) (hq : 1 ≤ s.qlen.toNat) :
    s.productCoeff (s.productLen - 1) =
      s.gfMul (s.cell .p (s.plen.toNat - 1)) (s.cell .q (s.qlen.toNat - 1)) := by
  have hlo : s.productLen - 1 + 1 - s.qlen.toNat = s.plen.toNat - 1 := by rw [State.productLen]; omega
  have hhi : min (s.productLen - 1) (s.plen.toNat - 1) = s.plen.toNat - 1 := by rw [State.productLen]; omega
  have hindex : s.productLen - 1 - (s.plen.toNat - 1) = s.qlen.toNat - 1 := by rw [State.productLen]; omega
  rw [State.productCoeff, hlo, hhi, Nat.add_sub_cancel_left]
  simp [List.range', gfAdd, hindex]

/-- Settles O44: what PMUL writes, by the product with [1] and by its top coefficient. -/
theorem productNeutralAndTop : Obligations.ProductNeutralAndTop := by
  unfold Obligations.ProductNeutralAndTop
  intro s t hs hready h hp _ hq hsum
  have htab := hs.tablesBuilt hready
  obtain ⟨n, hn, hexec⟩ := exec_pmul_of_fits hp hq hsum
  have htop : n.toNat - 1 < s.productLen := by rw [hn, State.productLen]; omega
  obtain rfl := Host.Outcome.next.inj (hexec.symm.trans h)
  refine ⟨hn, fun hone hval k hk => ?_, ?_, fun ha hb => ?_⟩
  · have hcoeffs : s.coeffs .q s.qlen.toNat = [1#8] := by
      rw [hone]
      exact congrArg (fun v => [v]) (State.cell_of_read hval)
    rw [htab.product_one hp hcoeffs, Memory.read_writeFrom_zero, State.coeffs_length, if_pos hk,
      State.coeffs_getElem _ _ _ _ hk]
  · rw [Memory.read_writeFrom_zero, State.product_length, if_pos htop, State.product_getElem _ _ htop, hn,
      State.productCoeff_top hp hq]
  · rw [htab.gfMul_eq]
    exact fun h => (clmulMod_eq_zero h).elim ha hb

/-- The state with P and Q exchanged. -/
def State.exchanged (s : State) : State :=
  { s with pbuf := s.qbuf, plen := s.qlen, qbuf := s.pbuf, qlen := s.plen }

/-- The entries of Q that hold a value are read as P's once P and Q are exchanged, and the other way round. -/
theorem State.coeffs_exchanged {s : State} {m m' : Store} {n : Nat} (hmem : s.exchanged.mem m = s.mem m')
    (h : ∀ i, i < n → ((s.mem m').read i).isSome = true) : s.exchanged.coeffs m n = s.coeffs m' n := by
  refine List.map_congr_left fun i hi => ?_
  obtain ⟨v, hv⟩ := Option.isSome_iff_exists.1 (h i (List.mem_range.1 hi))
  rw [State.cell_of_read hv, State.cell_of_read (hmem ▸ hv)]

theorem State.productLen_exchanged (s : State) : s.exchanged.productLen = s.productLen :=
  congrArg (· - 1) (Nat.add_comm ..)

/-- The polynomial product is commutative (R105). -/
theorem State.TablesBuilt.product_exchanged {s : State} (hs : s.TablesBuilt) (hp : 1 ≤ s.plen.toNat)
    (hq : 1 ≤ s.qlen.toNat) (hpheld : ∀ i, i < s.plen.toNat → (s.pbuf.read i).isSome = true)
    (hqheld : ∀ i, i < s.qlen.toNat → (s.qbuf.read i).isSome = true) : s.exchanged.product = s.product := by
  have htab : s.exchanged.TablesBuilt := ⟨hs.expTab, hs.logTab⟩
  have hpq : s.exchanged.coeffs .p s.exchanged.plen.toNat = s.coeffs .q s.qlen.toNat :=
    State.coeffs_exchanged rfl hqheld
  have hqp : s.exchanged.coeffs .q s.exchanged.qlen.toNat = s.coeffs .p s.plen.toNat :=
    State.coeffs_exchanged rfl hpheld
  obtain ⟨R, _, φ, hφ⟩ := exists_fieldReading
  apply hφ.coeffPoly_injective
  · rw [State.product_length, State.product_length, State.productLen_exchanged]
  · rw [hφ.coeffPoly_product htab hq hp, hφ.coeffPoly_product hs hp hq, hpq, hqp, mul_comm]

/-- Settles O45: the checks of PMUL treat P and Q alike, and the product is commutative. -/
theorem productIsCommutative : Obligations.ProductIsCommutative := by
  unfold Obligations.ProductIsCommutative
  intro s t hs hready hpheld hqheld h
  change ∃ u, exec .pmul s.exchanged = .next u ∧ _
  by_cases hok : lenOk s.plen = true ∧ lenOk s.qlen = true
  · obtain ⟨hp, hq⟩ := hok
    have hproduct : s.exchanged.product = s.product :=
      (hs.tablesBuilt hready).product_exchanged ((lenOk_iff _).1 hp).1 ((lenOk_iff _).1 hq).1 hpheld hqheld
    rw [exec_pmul_of_lenOk hp hq] at h
    rw [exec_pmul_of_lenOk (s := s.exchanged) hq hp, State.productLen_exchanged, hproduct]
    split_ifs at h ⊢ with hn <;> obtain rfl := Host.Outcome.next.inj h <;> exact ⟨_, rfl, rfl, rfl, rfl, rfl⟩
  · have hbad : lenOk s.plen = false ∨ lenOk s.qlen = false := by
      rwa [not_and_or, Bool.not_eq_true, Bool.not_eq_true] at hok
    rw [exec_pmul_of_badLen hbad] at h
    obtain rfl := Host.Outcome.next.inj h
    exact ⟨_, exec_pmul_of_badLen (s := s.exchanged) hbad.symm, rfl, rfl, rfl, rfl⟩

/-- Horner's method gives the value of a product as the product of the values. -/
theorem State.TablesBuilt.horner_product {s : State} (hs : s.TablesBuilt) (x : Byte) (hp : 1 ≤ s.plen.toNat)
    (hq : 1 ≤ s.qlen.toNat) :
    s.horner x s.product =
      s.gfMul (s.horner x (s.coeffs .p s.plen.toNat)) (s.horner x (s.coeffs .q s.qlen.toNat)) := by
  obtain ⟨R, _, φ, hφ⟩ := exists_fieldReading
  apply hφ.injective
  rw [hφ.map_gfMul hs, hφ.map_horner hs, hφ.map_horner hs, hφ.map_horner hs, hφ.coeffPoly_product hs hp hq,
    Polynomial.eval_mul]

/-- PMUL leaves the product's coefficients in R, and Horner's method as it was. -/
theorem exec_pmul_coeffs {s : State} (hp : 1 ≤ s.plen.toNat) (hq : 1 ≤ s.qlen.toNat)
    (hn : s.plen.toNat + s.qlen.toNat - 1 ≤ 256) :
    ∃ t, exec .pmul s = .next t ∧ lenOk t.rlen = true ∧ t.coeffs .r t.rlen.toNat = s.product ∧
      t.horner = s.horner := by
  obtain ⟨n, hlen, hexec⟩ := exec_pmul_of_fits hp hq hn
  refine ⟨_, hexec, ?_, State.coeffs_of_writeFrom rfl (hlen.trans s.product_length.symm), rfl⟩
  rw [lenOk_iff, hlen, State.productLen]
  omega

/-- PMOVE leaves R's coefficients in P, and Horner's method as it was. -/
theorem exec_pmove_coeffs {s : State} (h : lenOk s.rlen = true) :
    ∃ t, exec .pmove s = .next t ∧ t.plen = s.rlen ∧ t.coeffs .p t.plen.toNat = s.coeffs .r s.rlen.toNat ∧
      t.horner = s.horner :=
  ⟨_, exec_pmove_of_lenOk h, rfl, State.coeffs_of_writeFrom rfl (State.coeffs_length ..).symm, rfl⟩

/-- Settles O46: PMUL leaves the product in R, PMOVE takes it to P, and PEVAL evaluates it there. -/
theorem evaluationOfAProduct : Obligations.EvaluationOfAProduct := by
  unfold Obligations.EvaluationOfAProduct
  intro s x hs hready hp _ hq hsum
  obtain ⟨t, hmul, hrlen, hr, ht⟩ := exec_pmul_coeffs hp hq hsum
  obtain ⟨u, hmove, hplen, hu, hhorner⟩ := exec_pmove_coeffs hrlen
  refine ⟨t, u, _, hmul, hmove, exec_peval_of_lenOk x (by rw [hplen, hrlen]), ?_⟩
  calc u.horner x (u.coeffs .p u.plen.toNat) = s.horner x s.product := by rw [hhorner, ht, hu, hr]
    _ = _ := (hs.tablesBuilt hready).horner_product x hp hq

end Sys2Proof.Machine
end

section
/-! PROOFS. Errors (spec/60_exceptions.md R113): no command stops the model. -/

namespace Sys2Proof.Machine

/-- Settles O48: exec_next splits on the command; each branch of each meaning is a next state, since an error is a
record and a read of a cell that holds no value is a free value. -/
theorem everyCommandCompletes : Obligations.EveryCommandCompletes := by
  unfold Obligations.EveryCommandCompletes
  exact exec_next

end Sys2Proof.Machine
end

section
/-! PROOFS. The reset input (spec/70_reset_and_hazards.md R131): what each agent's turn does while it is asserted, and
what its deassertion leaves. -/

namespace Sys2Proof.Machine

section
variable {s : State} (hr : s.inReset = true)
include hr

theorem coreStep_of_inReset : coreStep s = .next s := if_pos hr

theorem hostStep_of_inReset (hhost : s.host ≠ []) : hostStep s = .refused .heldInReset := by
  obtain ⟨op, rest, hcons⟩ := List.exists_cons_of_ne_nil hhost
  simp [hostStep, hcons, hr]

theorem deassertStep_of_inReset : deassertStep s = s.restart := if_pos hr

end

/-- After restart the block holds what it holds at reset; only the environment's lists and the step number are kept. -/
theorem State.restart_sameBlock_reset (s : State) : s.restart.SameBlock State.reset := rfl

/-- Using up a turn writes nothing that the block holds. -/
theorem State.SameBlock.endTurn {s t : State} (h : s.SameBlock t) : s.endTurn.SameBlock t := h

/-- Settles O6: one clause for each kind of turn, by what that turn does while reset is asserted. -/
theorem resetInput : Obligations.ResetInput := by
  unfold Obligations.ResetInput
  intro s
  refine ⟨fun hturn => ?_, fun hr hturn => ?_, fun hr hturn hhost => ?_, fun hr hturn => ?_⟩
  · exact step_of_takeTurn (by rw [hturn]; rfl)
  · exact step_of_takeTurn (by rw [hturn]; exact coreStep_of_inReset hr)
  · exact step_refused_of_hostStep hturn (hostStep_of_inReset hr hhost)
  · have hstep : step s = .next s.restart.endTurn := by
      apply step_of_takeTurn
      rw [hturn, takeTurn, deassertStep_of_inReset hr]
    exact ⟨_, hstep, s.restart_sameBlock_reset.endTurn⟩

end Sys2Proof.Machine
end

section
/-! PROOFS. Encode and decode on words and on byte lanes (spec/30_encoding.md R57, R66; 20_memory.md R40). -/

namespace Sys2Proof.Machine

theorem decodeBytes_encodeBytes_append (i : Instr) (rest : List Byte) :
    decodeBytes (encodeBytes i ++ rest) = .ok (i, rest) := by
  calc decodeBytes (encodeBytes i ++ rest)
      = (decode (wordOfLanes (byteLane (encode i) 0) (byteLane (encode i) 1) (byteLane (encode i) 2)
          (byteLane (encode i) 3))).map (fun j => (j, rest)) := rfl
    _ = .ok (i, rest) := by rw [wordOfLanes_byteLane, decode_encode]; rfl

/-- Settles O23: a command's word matches the command's row, and the word is its four byte lanes. -/
theorem decodeOfEncode : Obligations.DecodeOfEncode := by
  unfold Obligations.DecodeOfEncode
  exact fun i => ⟨decode_encode i, legal_encode i, decodeBytes_encodeBytes_append i⟩

end Sys2Proof.Machine
end

section
/-! PROOFS. The invariant (spec/10_state.md sections 1, 2 and 4): it holds at reset, every operation on the state keeps
it, so every step does; and a served state that meets it always has a next step. -/

namespace Sys2Proof.Machine

/-- Settles O2: every clause of the invariant is evaluated on the reset state. -/
theorem resetMeetsTheInvariant : Obligations.ResetMeetsTheInvariant := by
  unfold Obligations.ResetMeetsTheInvariant
  exact State.inv_of_check (by decide)

/-! The error codes (60_exceptions.md R114). -/

theorem ErrCode.bits_ne_zero (c : ErrCode) : c.bits ≠ 0#4 := by cases c <;> decide

theorem ErrCode.bits_toNat_le (c : ErrCode) : c.bits.toNat ≤ 8 := by cases c <;> decide

/-! Memories: canonical, and inside their size (10_state.md R15). -/

/-- What the invariant says of one memory. -/
def Memory.Fits (k : Store) (m : Memory) : Prop := m.wf = true ∧ m.below (cellCount k) = true

section
variable {k : Store} {m : Memory} (hm : m.Fits k)
include hm

theorem Memory.Fits.write {i : Nat} (v : Byte) (hi : i < cellCount k) : Memory.Fits k (m.write i v) :=
  ⟨m.wf_write i v hm.1, m.below_write v hi hm.2⟩

theorem Memory.Fits.writeFrom {vs : List Byte} (hlen : vs.length ≤ cellCount k) : Memory.Fits k (m.writeFrom 0 vs) :=
  ⟨m.wf_writeFrom 0 vs hm.1, m.below_writeFrom 0 _ vs (by omega) hm.2⟩

end

theorem builtExp_fits : builtExp.Fits .exp := by
  rw [builtExp_eq]
  exact ⟨Memory.wfFrom_block _ 0, Memory.below_block _ 0 255 (by decide +kernel)⟩

theorem builtLog_fits : builtLog.Fits .log := by
  rw [builtLog_eq]
  exact ⟨Memory.wfFrom_mono _ (Nat.zero_le 1) (Memory.wfFrom_block _ 1), Memory.below_block _ 1 256 (by decide +kernel)⟩

theorem builtLog_read_zero : builtLog.read 0 = none := by
  rw [builtLog]
  exact read_logOf_zero ((checkTable_iff _).1 checkTable_hardware).1

theorem State.setTables_mem (s : State) (e l : Memory) :
    (s.setTables e l).mem = Function.update (Function.update s.mem .exp e) .log l := by
  funext k; cases k <;> rfl

theorem State.setPbuf_mem (s : State) (m : Memory) : (s.setPbuf m).mem = Function.update s.mem .p m := by
  funext k; cases k <;> rfl

theorem State.setQbuf_mem (s : State) (m : Memory) : (s.setQbuf m).mem = Function.update s.mem .q m := by
  funext k; cases k <;> rfl

theorem State.setRbuf_mem (s : State) (m : Memory) : (s.setRbuf m).mem = Function.update s.mem .r m := by
  funext k; cases k <;> rfl

theorem fits_update {f : Store → Memory} {k : Store} {m : Memory} (hf : ∀ j, (f j).Fits j) (hm : m.Fits k) (j : Store) :
    (Function.update f k m j).Fits j :=
  (Function.forall_update_iff f Memory.Fits).2 ⟨hm, fun j _ => hf j⟩ j

/-! Each operation on the state keeps the invariant. -/

/-- The invariant speaks of the block alone. -/
theorem State.SameBlock.inv {s t : State} (h : s.SameBlock t) (ht : t.Inv) : s.Inv := by
  rw [← h] at ht
  exact { ht with }

theorem State.restart_inv (s : State) : s.restart.Inv := s.restart_sameBlock_reset.inv resetMeetsTheInvariant

section
variable {s : State} (hs : s.Inv)
include hs

theorem State.Inv.fits (k : Store) : (s.mem k).Fits k := ⟨hs.wf k, hs.bounded k⟩

theorem State.Inv.endTurn : s.endTurn.Inv := State.SameBlock.inv (t := s) rfl hs

theorem State.Inv.setHost (ops : List HostOp) : (s.setHost ops).Inv := State.SameBlock.inv (t := s) rfl hs

theorem State.Inv.logRead (v : Word) : (s.logRead v).Inv := State.SameBlock.inv (t := s) rfl hs

theorem State.Inv.setInReset (b : Bool) : (s.setInReset b).Inv := { hs with }

theorem State.Inv.setResult (v : Byte) : (s.setResult v).Inv := { hs with }

theorem State.Inv.setPlen (n : Len) : (s.setPlen n).Inv := { hs with }

theorem State.Inv.setQlen (n : Len) : (s.setQlen n).Inv := { hs with }

theorem State.Inv.recordError (c : ErrCode) : (s.recordError c).Inv :=
  { hs with errCode := iff_of_true rfl c.bits_ne_zero, codeRange := c.bits_toNat_le }

theorem State.Inv.clearError : s.clearError.Inv := { hs with errCode := by simp, codeRange := Nat.zero_le 8 }

theorem State.Inv.accept {v : Word} (hready : s.tstate = .ready) (hlegal : legal v = true) : (s.accept v).Inv :=
  { hs with
    busyPend := rfl
    pendLegal := fun _ hw => Option.some_inj.1 hw ▸ hlegal
    busyReady := fun _ => hready }

theorem State.Inv.retire : s.retire.Inv := { hs with busyPend := rfl, pendLegal := nofun, busyReady := nofun }

theorem State.Inv.setTables : (s.setTables builtExp builtLog).Inv := by
  have hfits := fits_update (fits_update hs.fits builtExp_fits) builtLog_fits
  rw [← State.setTables_mem] at hfits
  exact { hs with
    wf := fun k => (hfits k).1
    bounded := fun k => (hfits k).2
    logZero := builtLog_read_zero
    tables := fun _ => ⟨rfl, rfl⟩
    notFailed := nofun
    busyReady := fun _ => rfl }

theorem State.Inv.setPbuf {m : Memory} (hm : m.Fits .p) : (s.setPbuf m).Inv := by
  have hfits := fits_update hs.fits hm
  rw [← State.setPbuf_mem] at hfits
  exact { hs with wf := fun k => (hfits k).1, bounded := fun k => (hfits k).2 }

theorem State.Inv.setQbuf {m : Memory} (hm : m.Fits .q) : (s.setQbuf m).Inv := by
  have hfits := fits_update hs.fits hm
  rw [← State.setQbuf_mem] at hfits
  exact { hs with wf := fun k => (hfits k).1, bounded := fun k => (hfits k).2 }

/-- PMUL's writes: RLEN counts entries that were written just now. -/
theorem State.Inv.setProduct {vs : List Byte} (hlen : vs.length ≤ 256) :
    ((s.setRbuf (s.rbuf.writeFrom 0 vs)).setRlen (BitVec.ofNat 9 vs.length)).Inv := by
  have hfits := fits_update (m := s.rbuf.writeFrom 0 vs) hs.fits ((hs.fits .r).writeFrom hlen)
  rw [← State.setRbuf_mem] at hfits
  have hrlen : (BitVec.ofNat 9 vs.length).toNat = vs.length := Nat.mod_eq_of_lt (by omega)
  exact { hs with
    wf := fun k => (hfits k).1
    bounded := fun k => (hfits k).2
    rlenRange := hrlen.trans_le hlen
    productHeld := fun i hi => by
      rw [State.setRlen_rlen, hrlen] at hi
      rw [State.setRlen_rbuf, State.setRbuf_rbuf, Memory.read_writeFrom_zero, if_pos hi, List.getElem?_eq_getElem hi]
      rfl }

/-! Each kind of step keeps the invariant. -/

theorem State.Inv.of_exec {i : Instr} {t : State} (h : exec i s = .next t) : t.Inv := by
  obtain ⟨c, rfl⟩ | ⟨-, v, rfl⟩ | ⟨-, vs, -, hle, rfl⟩ | ⟨-, a, rfl⟩ | ⟨-, vs, -, hle, rfl⟩ := exec_cases h
  · exact hs.recordError c
  · exact hs.setResult v
  · exact hs.setProduct hle
  · exact (hs.setQbuf ((hs.fits .q).writeFrom (by simp [cellCount]))).setQlen 2#9
  · exact (hs.setPbuf ((hs.fits .p).writeFrom hle)).setPlen s.rlen

theorem State.Inv.of_busWrite (off : Nat) (v : Word) : (busWrite off v s).Inv := by
  obtain h | ⟨c, h⟩ | h | ⟨hready, -, hlegal, h⟩ |
    ⟨-, ⟨n, h⟩ | ⟨n, h⟩ | ⟨i, b, hi, h⟩ | ⟨i, b, hi, h⟩⟩ := busWrite_cases off v s <;> rw [h]
  · exact hs
  · exact hs.recordError c
  · exact hs.clearError
  · exact hs.accept hready hlegal
  · exact hs.setPlen n
  · exact hs.setQlen n
  · exact hs.setPbuf ((hs.fits .p).write b hi)
  · exact hs.setQbuf ((hs.fits .q).write b hi)

theorem State.Inv.of_hostStep {t : State} (h : hostStep s = .next t) : t.Inv := by
  cases hostStep_cases h with
  | pass ht => rw [ht]; exact hs
  | read rest v _ ht => rw [ht]; exact (hs.setHost rest).logRead v
  | write off v rest _ ht => rw [ht]; exact (hs.setHost rest).of_busWrite off v

end

/-- Settles O3: each kind of step is made of operations that keep the invariant, and a reset establishes it anew. -/
theorem stepKeepsTheInvariant : Obligations.StepKeepsTheInvariant := by
  unfold Obligations.StepKeepsTheInvariant
  intro s t hs h
  cases step_cases h with
  | host u _ hu ht => rw [ht]; exact (hs.of_hostStep hu).endTurn
  | build _ _ _ ht => rw [ht]; exact hs.setTables.endTurn
  | complete v i u _ _ _ _ _ _ hu ht => rw [ht]; exact (hs.of_exec hu).retire.endTurn
  | restart _ _ ht => rw [ht]; exact s.restart_inv.endTurn
  | level b ht => rw [ht]; exact (hs.setInReset b).endTurn

/-! A served state has a next step, and it stays served (20_memory.md R42; 60_exceptions.md R113). -/

/-- What a turn leaves of the environment's requests: no new transaction, the level of reset and the schedule. -/
structure EnvironmentFrame (s t : State) : Prop where
  host : t.host ⊆ s.host
  inReset : t.inReset = s.inReset
  sched : t.sched = s.sched

theorem EnvironmentFrame.refl (s : State) : EnvironmentFrame s s := ⟨List.Subset.refl _, rfl, rfl⟩

theorem hostStep_environmentFrame {s t : State} (h : hostStep s = .next t) : EnvironmentFrame s t :=
  ⟨hostStep_host_subset h, (hostStep_frame h).inReset, (hostStep_frame h).sched⟩

theorem coreStep_environmentFrame {s t : State} (h : coreStep s = .next t) : EnvironmentFrame s t := by
  obtain ⟨-, rfl⟩ | ⟨-, -, rfl⟩ | ⟨-, -, -, hc⟩ := coreStep_next h
  · exact .refl t
  · rw [build_eq]
    exact ⟨List.Subset.refl _, rfl, rfl⟩
  · obtain ⟨v, i, u, -, -, hu, rfl⟩ := completeStep_next hc
    have hf := exec_frame hu
    exact ⟨by rw [State.retire_host, hf.host]; exact List.Subset.refl _, hf.inReset, hf.sched⟩

/-- While reset is not asserted, CORE's turn has a step or passes (R18). -/
theorem State.Inv.coreStep_next {s : State} (hs : s.Inv) (hr : s.inReset = false) : ∃ t, coreStep s = .next t := by
  obtain ⟨-, hbuild, hcomplete, hpass⟩ := enabledCoreSteps s hs hr
  by_cases hi : s.tstate = .init
  · exact ⟨_, hbuild hi⟩
  cases hb : s.busy with
  | true =>
    obtain ⟨hcore, t, ht, -⟩ := hcomplete hb
    exact ⟨t, hcore.trans ht⟩
  | false => exact ⟨s, hpass hi hb⟩

theorem State.Served.nextTurn_ne_assertReset {s : State} (hs : s.Served) : s.nextTurn ≠ .assertReset := by
  intro hturn
  unfold State.nextTurn at hturn
  split at hturn
  case h_1 hsched => exact hs.steady (by rw [hsched, hturn]; exact List.mem_cons_self)
  case h_2 => split at hturn <;> cases hturn

/-- Whoever has the turn, it has a step or passes, and the environment's requests stay. -/
theorem State.Served.takeTurn_next {s : State} (hs : s.Served) (hi : s.Inv) :
    ∃ u, takeTurn s.nextTurn s = .next u ∧ EnvironmentFrame s u := by
  cases hturn : s.nextTurn with
  | host =>
    obtain ⟨u, hu⟩ := hostStep_next_of_served hs
    exact ⟨u, hu, hostStep_environmentFrame hu⟩
  | core =>
    obtain ⟨u, hu⟩ := hi.coreStep_next hs.running
    exact ⟨u, hu, coreStep_environmentFrame hu⟩
  | assertReset => exact absurd hturn hs.nextTurn_ne_assertReset
  | deassertReset => exact ⟨s, by simp [takeTurn, deassertStep, hs.running], .refl s⟩

/-- Settles O4: the turn has a step, the step keeps the invariant, and it leaves the environment's requests. -/
theorem servedStateNeverStops : Obligations.ServedStateNeverStops := by
  unfold Obligations.ServedStateNeverStops
  intro s hi hs
  obtain ⟨u, hu, hhost, hr, hsched⟩ := hs.takeTurn_next hi
  have hstep : step s = .next u.endTurn := step_of_takeTurn hu
  exact ⟨u.endTurn, hstep, stepKeepsTheInvariant s _ hi hstep, hs.endTurn hhost hr hsched⟩

end Sys2Proof.Machine
end
